-- ==== Sys2Proof/Word.lean ====
section
/-! DEFINITION. The word types of SPL-CORE. -/

namespace Sys2Proof

/-- One byte, the unit of addressing (20_memory.md R61). -/
abbrev Byte := BitVec 8

/-- A finite sequence of bytes, the first one at offset 0 (00_scope.md R14). -/
abbrev Bytes := List Byte

/-- A buffer index as a command names it, `bd` or `bs` (30_encoding.md R91). -/
abbrev BufIx := BitVec 4

/-- A scalar operand, `x` or `y` (30_encoding.md R91). -/
abbrev Scalar := BitVec 32

/-- The value operand `v`, a `RES` register and the `value` of a response (R21, R91, R98). -/
abbrev Value := BitVec 64

/-- A command word (30_encoding.md R90). -/
abbrev CmdWord := BitVec 160

end Sys2Proof
end

