-- ==== Sys2Proof/Machine/Bytes.lean ====
section
/-! DEFINITION. Byte sequences, bit fields and byte order (00_scope.md R12 to R14, 20_memory.md R62,
R63, R68). -/

namespace Sys2Proof.Machine

/-- `be(s)`: the unsigned integer whose most significant byte is the first (00_scope.md R14). -/
def be (s : Bytes) : Nat := s.foldl (fun n b => n * 256 + b.toNat) 0

/-- `to_be(v, n)`: the `n`-byte big-endian sequence of `v mod 2^(8n)` (00_scope.md R14). -/
def toBe (v : Nat) : Nat → Bytes
  | 0 => []
  | n + 1 => BitVec.ofNat 8 (v / 256 ^ n) :: toBe v n

/-- `s[off : off+n]` (00_scope.md R14). -/
def slice (s : Bytes) (off n : Nat) : Bytes := (s.drop off).take n

/-- `s` with the bytes from `off` on replaced by `t`, where all of `t` fits; the length stays
(20_memory.md R67). -/
def overwrite (s : Bytes) (off : Nat) (t : Bytes) : Bytes :=
  s.take off ++ t ++ s.drop (off + t.length)

/-- Bit `p` of a byte sequence, bit 0 the most significant bit of byte 0 (20_memory.md R63). -/
def bitAt (s : Bytes) (p : Nat) : Bool := (s.getD (p / 8) 0).getLsbD (7 - p % 8)

/-- The value of the `w` bits from `p` on, bit `p` the most significant (20_memory.md R63). -/
def bitField (s : Bytes) (p : Nat) : Nat → Nat
  | 0 => 0
  | w + 1 => 2 * bitField s p w + (bitAt s (p + w)).toNat

/-- A byte with bit `k` (least significant bit 0) set to `b`. -/
def setByteBit (c : Byte) (k : Nat) (b : Bool) : Byte :=
  if b then c ||| (1 : Byte) <<< k else c &&& ~~~((1 : Byte) <<< k)

/-- `s` with bit `p` set to `b`, every other bit kept (20_memory.md R68). -/
def setBitAt (s : Bytes) (p : Nat) (b : Bool) : Bytes :=
  s.set (p / 8) (setByteBit (s.getD (p / 8) 0) (7 - p % 8) b)

/-- `s` with the `w` bits from `p` on set to the low `w` bits of `v`, bit `p` to the most significant
of them (20_memory.md R68): the last bit is `v`'s bit 0, and the bits before it take `v / 2`. -/
def setBitField (s : Bytes) (p : Nat) : Nat → Nat → Bytes
  | 0, _ => s
  | w + 1, v => setBitAt (setBitField s p w (v / 2)) (p + w) (v.testBit 0)

end Sys2Proof.Machine
end

