-- ==== Sys2Proof/Config.lean ====
section
/-! DEFINITION. The parameters of an SPL-CORE instance (00_scope.md R10), as plain data. -/

namespace Sys2Proof

/-- The parameters "fixed when the instance is built" (00_scope.md R10). The predicate
`bits_supported` is held as the finite list of the pairs (bit within a byte, width) that it
rejects, so that the record is plain data (assumption log 4). -/
structure Config where
  /-- `TM_FRAME_SIZE`, OPEN in the spec. -/
  tmFrameSize : Nat
  /-- `TM_HAS_CRC`, OPEN in the spec. -/
  tmHasCrc : Bool
  /-- `IDLE_FILL_BYTE`, default 0x00 (92 D33). -/
  idleFillByte : Byte := 0x00
  /-- `NBUF`, default 4 (92 D5). -/
  nbuf : Nat := 4
  /-- `BUF_CAP`, default 65542 (92 D5). -/
  bufCap : Nat := 65542
  /-- The pairs `(o, w)` for which `bits_supported(o, w)` is false, default none (92 D15). -/
  unsupportedBits : List (Nat × Nat) := []
deriving DecidableEq, Repr

/-- The instance `State.reset` describes. DESIGN CHOICE (unsafe, assumption log 3):
`TM_FRAME_SIZE` and `TM_HAS_CRC` are OPEN, and the values here are those the spec's own test
vectors use "unless a section says otherwise" (95_test_vectors.md); the rest are R10's defaults. -/
def Config.vectors : Config := { tmFrameSize := 20, tmHasCrc := false }

end Sys2Proof
end

