-- ==== Sys2Proof/Machine/State.lean ====
section
/-! DEFINITION. The state of SPL-CORE as plain data (10_state.md), the records a command answers
with (30_encoding.md R98 to R101), what the host can issue (10_state.md R20), and the reasons the
model can stop. -/

namespace Sys2Proof.Machine

/-- The completion class of a command (30_encoding.md R99). A status other than `ok` is a *fault* in
the spec's sense (00_scope.md R19): a way to complete, not a stop of the machine. -/
inductive Status where
  | ok
  | malformedInput
  | integrityFailure
  | outOfRange
  | invalidWidth
  | illegalCommand
  | capacity
deriving DecidableEq, Repr

/-- The reason codes (30_encoding.md R101), in the order of the table. -/
inductive Reason where
  | none
  | cltuTooShort
  | cltuBadLength
  | cltuBadStart
  | cltuBadTrailer
  | bchMismatch
  | badFrameSize
  | crcMismatch
  | badFhp
  | shortHeader
  | badPacketLength
  | fieldOutOfRange
  | badBitWidth
  | undefinedOpcode
  | reservedNonzero
  | badBufferIndex
  | badOperand
  | badRegAddr
  | readOnlyReg
  | bufferCapacity
deriving DecidableEq, Repr

/-- The kinds of event (30_encoding.md R100). -/
inductive EventKind where
  | frame
  | packet
  | discard
  | lead
  | trail
deriving DecidableEq, Repr

/-- One event of a response (30_encoding.md R100). Its `length` field is the length of `data`. -/
structure Event where
  kind : EventKind
  info : BitVec 8
  data : Bytes
deriving DecidableEq, Repr

/-- The response of a command (30_encoding.md R98). -/
structure Response where
  status : Status
  reason : Reason
  value : Value
  payload : Bytes
  events : List Event
deriving DecidableEq, Repr

/-- What the host can do (10_state.md R20): issue a command word with the payload beside it
(30_encoding.md R90), or assert the reset input (70_reset_and_hazards.md R300). -/
inductive HostInput where
  | command (word : CmdWord) (payload : Bytes)
  | resetInput
deriving DecidableEq, Repr

/-- The state of the block (10_state.md R20): the architectural state, the parameters of the
instance (`cfg`, which no step changes), and the model's own two fields for the command port
(`inputs` and `response`; assumption log 1 and 2). -/
structure State where
  /-- The parameters of the instance (00_scope.md R10). -/
  cfg : Config
  /-- `RES[0]` to `RES[15]` (10_state.md R21). -/
  res : Vector Value 16
  /-- `ERRFLAGS` (10_state.md R25). -/
  errflags : BitVec 6
  /-- `BCH_SR` (10_state.md R27). -/
  bchSr : BitVec 7
  /-- The buffer file `B` (10_state.md R39): the byte sequence of each of the 16 indices a command
  can name. Those from `NBUF` on do not exist and stay empty (assumption log 5). -/
  bufs : Vector Bytes 16
  /-- `ASM_SCID` (10_state.md R28). -/
  asmScid : BitVec 10
  /-- `ASM_VCID` (10_state.md R29). -/
  asmVcid : BitVec 3
  /-- `ASM_VCFC` (10_state.md R30). -/
  asmVcfc : BitVec 8
  /-- `ASM_MCFC` (10_state.md R31). -/
  asmMcfc : BitVec 8
  /-- `ASM_WR` (10_state.md R32). -/
  asmWr : BitVec 11
  /-- `ASM_FHP` (10_state.md R33). -/
  asmFhp : BitVec 11
  /-- `ASM_FRAME` (10_state.md R40). -/
  asmFrame : Bytes
  /-- `PKT_CARRY` (10_state.md R41); `PKT_CARRY_LEN` (R34) is its length. -/
  pktCarry : Bytes
  /-- `PKT_TARGET[16:0]` (10_state.md R35). -/
  pktTarget : BitVec 17
  /-- `PKT_TARGET_VALID`, bit 31 of `PKT_TARGET` (10_state.md R35). -/
  pktTargetValid : Bool
  /-- `PKT_STATUS` (10_state.md R36). -/
  pktStatus : BitVec 3
  /-- `PKT_CTRL` (10_state.md R37). -/
  pktCtrl : BitVec 1
  /-- The model's own: what the host has issued and the block has not taken yet, oldest first
  (assumption log 1). -/
  inputs : List HostInput
  /-- The model's own: the response of the latest command, none since the last assertion of the
  reset input (assumption log 2). -/
  response : Option Response
deriving DecidableEq, Repr

/-- The ways the machine can stop with a fault. There are none: "There is no double fault and no
lock-up state: every state reachable by any command sequence accepts every command"
(60_exceptions.md R282). What the spec calls a fault is a completion with a status other than
`ok`, and a next state (`takeFault` of Machine/Ops.lean). -/
inductive Fault where
deriving DecidableEq

/-- The ways the model refuses to answer. -/
inductive Refusal where
  /-- Raised by `exec` for an instruction with no meaning yet; no arm of this model uses it. Safe. -/
  | notModelled (mnemonic : String)
  /-- Raised by `step` for a payload of 2^32 bytes or more, which no host interface can carry:
  93_implementation_defined.md U14, `refuse`. Safe. -/
  | payloadTooLong (length : Nat)
  /-- Raised by `step` when the parameters break 00_scope.md R10 or R11: "such a configuration is not
  an SPL-CORE; the model need not define it" (93_implementation_defined.md U12, `refuse`). Safe. -/
  | notAnSplCore
deriving DecidableEq, Repr

/-- What a step of SPL-CORE can answer. -/
abbrev Outcome := Host.Outcome State Fault Refusal

/-- The reset values of 10_state.md R45 for the instance `c`; the two fields of the command port
are empty. -/
def State.resetFor (c : Config) : State :=
  { cfg := c
    res := Vector.replicate 16 0
    errflags := 0
    bchSr := 0
    bufs := Vector.replicate 16 []
    asmScid := 0
    asmVcid := 0
    asmVcfc := 0
    asmMcfc := 0
    asmWr := 0
    asmFhp := 0x7FF
    asmFrame := List.replicate c.tmFrameSize 0x00
    pktCarry := []
    pktTarget := 0
    pktTargetValid := false
    pktStatus := 0
    pktCtrl := 0
    inputs := []
    response := none }

/-- The machine right after reset (10_state.md R45, 70_reset_and_hazards.md R301), for the instance
of assumption log 3. -/
def State.reset : State := State.resetFor Config.vectors

end Sys2Proof.Machine
end

