-- ==== Sys2Proof/Machine/Flags.lean ====
section
/-! DEFINITION. The status, reason and event codes (30_encoding.md R99 to R101) and every flag
computation: `ERRFLAGS` (10_state.md R25, 60_exceptions.md R277), `PKT_STATUS` (10_state.md R36),
and write-one-to-clear (47_system.md R257). -/

namespace Sys2Proof.Machine

/-- The status codes of 30_encoding.md R99. -/
def statusCode : Status → BitVec 4
  | .ok => 0
  | .malformedInput => 1
  | .integrityFailure => 2
  | .outOfRange => 3
  | .invalidWidth => 4
  | .illegalCommand => 5
  | .capacity => 6

/-- The reason codes of 30_encoding.md R101. -/
def reasonCode : Reason → BitVec 8
  | .none => 0
  | .cltuTooShort => 1
  | .cltuBadLength => 2
  | .cltuBadStart => 3
  | .cltuBadTrailer => 4
  | .bchMismatch => 5
  | .badFrameSize => 6
  | .crcMismatch => 7
  | .badFhp => 8
  | .shortHeader => 9
  | .badPacketLength => 10
  | .fieldOutOfRange => 11
  | .badBitWidth => 12
  | .undefinedOpcode => 13
  | .reservedNonzero => 14
  | .badBufferIndex => 15
  | .badOperand => 16
  | .badRegAddr => 17
  | .readOnlyReg => 18
  | .bufferCapacity => 19

/-- The status each reason belongs to (30_encoding.md R101, 60_exceptions.md R271 to R275). -/
def statusOf : Reason → Status
  | .none => .ok
  | .cltuTooShort => .malformedInput
  | .cltuBadLength => .malformedInput
  | .cltuBadStart => .malformedInput
  | .cltuBadTrailer => .malformedInput
  | .bchMismatch => .integrityFailure
  | .badFrameSize => .malformedInput
  | .crcMismatch => .integrityFailure
  | .badFhp => .malformedInput
  | .shortHeader => .malformedInput
  | .badPacketLength => .malformedInput
  | .fieldOutOfRange => .outOfRange
  | .badBitWidth => .invalidWidth
  | .undefinedOpcode => .illegalCommand
  | .reservedNonzero => .illegalCommand
  | .badBufferIndex => .illegalCommand
  | .badOperand => .illegalCommand
  | .badRegAddr => .illegalCommand
  | .readOnlyReg => .illegalCommand
  | .bufferCapacity => .capacity

/-- The codes of the event kinds (30_encoding.md R100). -/
def eventCode : EventKind → BitVec 4
  | .frame => 1
  | .packet => 2
  | .discard => 3
  | .lead => 4
  | .trail => 5

/-- The bits a completion with the given status sets in `ERRFLAGS`: bit `c - 1` for class code `c`,
none for `OK` (10_state.md R25, 60_exceptions.md R277). -/
def errMask : Status → BitVec 6
  | .ok => 0b000000
  | .malformedInput => 0b000001
  | .integrityFailure => 0b000010
  | .outOfRange => 0b000100
  | .invalidWidth => 0b001000
  | .illegalCommand => 0b010000
  | .capacity => 0b100000

/-- `ERRFLAGS <- ERRFLAGS | (1 << (c - 1))` (60_exceptions.md R277). -/
def raiseFlag (flags : BitVec 6) (st : Status) : BitVec 6 := flags ||| errMask st

/-- Write one to clear: a 1 clears, a 0 keeps (47_system.md R257). -/
def clearOnes {n : Nat} (reg written : BitVec n) : BitVec n := reg &&& ~~~written

/-- `PKT_STATUS` bit 0, `ORPHAN` (10_state.md R36). -/
def orphanBit : BitVec 3 := 0b001

/-- `PKT_STATUS` bit 1, `TRUNCATED` (10_state.md R36). -/
def truncatedBit : BitVec 3 := 0b010

/-- `PKT_STATUS` bit 2, `OVERRUN` (10_state.md R36). -/
def overrunBit : BitVec 3 := 0b100

end Sys2Proof.Machine
end

