-- ==== Sys2Proof/Machine/Params.lean ====
section
/-! DEFINITION. What follows from the parameters of an instance (00_scope.md R10, R11), and the field
tables of the headers (30_encoding.md R110, R115, R116, R118; 40_binaryunit.md R148). -/

namespace Sys2Proof.Machine

/-- `MAX_INT_BYTES`, the largest integer field width in bytes (00_scope.md R10, 40_binaryunit.md R139). -/
def maxIntBytes : Nat := 8

/-- `MAX_BITS`, the largest bit-field width (00_scope.md R10, 20_memory.md R65). -/
def maxBits : Nat := 64

/-- `MIN_PKT`, the bytes needed before a packet header is parsed (30_encoding.md R117). -/
def minPkt : Nat := 7

/-- The capacity of `PKT_CARRY` and the largest packet, `65535 + 7` bytes (00_scope.md R11,
10_state.md R41). -/
def maxPkt : Nat := 65542

/-- The APID of an idle packet (30_encoding.md R117). -/
def idleApid : Nat := 2047

/-- The "no first packet" sentinel of `firstHeaderPointer` (30_encoding.md R113). -/
def fhpNoFirst : Nat := 0x7FF

/-- The idle pattern of `firstHeaderPointer` (30_encoding.md R114). -/
def fhpIdle : Nat := 0x7FE

/-- `DF_START` (00_scope.md R11). -/
def dfStart : Nat := 6

/-- `DF_END` (00_scope.md R11). -/
def dfEnd (c : Config) : Nat := c.tmFrameSize - (if c.tmHasCrc then 2 else 0)

/-- `DF_LEN` (00_scope.md R11). -/
def dfLen (c : Config) : Nat := dfEnd c - dfStart

/-- `bits_supported(o, w)` (00_scope.md R10, 20_memory.md R65). -/
def bitsSupported (c : Config) (o w : Nat) : Bool := !c.unsupportedBits.contains (o, w)

/-- The TM frame primary header: (bit offset, width) of `versionNumber`, `spacecraftId`,
`virtualChannelId`, `operationalControlFieldFlag`, `masterChannelFrameCount`,
`virtualChannelFrameCount`, `secondaryHeaderFlag`, `synchronisationFlag`, `packetOrderFlag`,
`segmentLengthId`, `firstHeaderPointer` (30_encoding.md R110). -/
def tmfFields : List (Nat × Nat) :=
  [(0, 2), (2, 10), (12, 3), (15, 1), (16, 8), (24, 8), (32, 1), (33, 1), (34, 1), (35, 2), (37, 11)]

/-- The TC frame primary header: `versionNumber`, `bypassFlag`, `controlCommandFlag`,
`reservedFieldA`, `spacecraftId`, `virtualChannelId`, `frameLength`, `sequenceNumber`
(30_encoding.md R115). -/
def tcfFields : List (Nat × Nat) :=
  [(0, 2), (2, 1), (3, 1), (4, 2), (6, 10), (16, 6), (22, 10), (32, 8)]

/-- The packet primary header: `versionNumber`, `packetType`, `secondaryHeaderFlag`,
`applicationProcessId`, `sequenceFlags`, `sequenceCount`, `packetLength` (30_encoding.md R116). -/
def pktFields : List (Nat × Nat) :=
  [(0, 3), (3, 1), (4, 1), (5, 11), (16, 2), (18, 14), (32, 16)]

/-- The TC segment header: `sequenceFlags`, `mapId` (30_encoding.md R118). -/
def segFields : List (Nat × Nat) := [(0, 2), (2, 6)]

/-- The constraints on the parameters (00_scope.md R10, R11): `13 <= DF_LEN <= 2046`,
`1 <= NBUF <= 16`, `BUF_CAP` at least `max(TM_FRAME_SIZE, 18)`, and every field of the header
tables a supported bit configuration. -/
def configValid (c : Config) : Bool :=
  decide (13 ≤ dfLen c) && decide (dfLen c ≤ 2046) &&
  decide (1 ≤ c.nbuf) && decide (c.nbuf ≤ 16) &&
  decide (c.tmFrameSize ≤ c.bufCap) && decide (18 ≤ c.bufCap) &&
  (tmfFields ++ tcfFields ++ pktFields ++ segFields).all (fun f => bitsSupported c (f.1 % 8) f.2)

end Sys2Proof.Machine
end

