-- ==== Sys2Proof/Machine/Ops.lean ====
section
/-! DEFINITION. The named operations over registers and buffers, completion of a command, and taking
a fault (60_exceptions.md R276 to R278), which is this hardware's only exception entry. There is
no return from a fault: "after a faulting command the next command is taken exactly as after a
successful one" (R282). -/

namespace Sys2Proof.Machine

/-- `B[i]` (10_state.md R39). -/
def State.buf (s : State) (i : BufIx) : Bytes := s.bufs[i.toNat]

/-- `B[i] <- b`. -/
def State.setBuf (s : State) (i : BufIx) (b : Bytes) : State :=
  { s with bufs := s.bufs.set i.toNat b }

/-- `RES[i] <- v` (10_state.md R21). -/
def State.setRes (s : State) (i : Fin 16) (v : Value) : State := { s with res := s.res.set i v }

/-- `RES[i] <- vs[0]`, `RES[i+1] <- vs[1]`, and so on; the register file ends at `RES[15]`. -/
def State.setResFrom (s : State) : Nat → List Value → State
  | _, [] => s
  | i, v :: vs => (if h : i < 16 then s.setRes ⟨i, h⟩ v else s).setResFrom (i + 1) vs

/-- One byte of the buffer space (20_memory.md R60): none where there is no such location. -/
def State.byteAt (s : State) (i : BufIx) (k : Nat) : Option Byte :=
  if i.toNat < s.cfg.nbuf then (s.buf i)[k]? else none

/-- A length, an index or a code as a 64-bit value (00_scope.md R13). -/
def val (n : Nat) : Value := BitVec.ofNat 64 n

/-- How the pseudocode of a command ends: with `OK`, the state it leaves and its answer, or with
`raise F(reason, aux)` (00_scope.md R16). -/
inductive Completion where
  | done (t : State) (value : Value) (payload : Bytes) (events : List Event)
  | raised (r : Reason) (aux : Value)
deriving DecidableEq, Repr

/-- TAKING A FAULT (60_exceptions.md R276 to R278): of the architectural state only `ERRFLAGS`
changes; the response carries the class, the reason and the auxiliary value, no payload and no
event. -/
def takeFault (s : State) (r : Reason) (aux : Value) : State :=
  { s with
    errflags := raiseFlag s.errflags (statusOf r)
    response := some { status := statusOf r, reason := r, value := aux, payload := [], events := [] } }

/-- A completion with `OK`: `ERRFLAGS` is left as the command left it (60_exceptions.md R277), and
the response is that of 30_encoding.md R98. -/
def answerOk (t : State) (value : Value) (payload : Bytes) (events : List Event) : State :=
  { t with
    response := some { status := .ok, reason := .none, value := value, payload := payload, events := events } }

/-- Complete a command that started in `s`: every check comes before the first change of state, so a
fault is taken in `s` itself (60_exceptions.md R276). -/
def complete (s : State) : Completion → Outcome
  | .done t v p e => .next (answerOk t v p e)
  | .raised r a => .next (takeFault s r a)

/-- `OK` with `value` = `RES[0]` after the command (30_encoding.md R98), no payload and the events. -/
def finishEvents (t : State) (e : List Event) : Completion := .done t t.res[0] [] e

/-- `OK` with `value` = `RES[0]` after the command, no payload and no event. -/
def finish (t : State) : Completion := finishEvents t []

/-- `if not ok: raise F(reason, aux)`, else go on with `k`. Inlined, here and in the operations below, so
that running the model computes nothing of `k` before the check. -/
@[inline] def require (ok : Bool) (r : Reason) (aux : Value) (k : Completion) : Completion :=
  if ok then k else .raised r aux

/-- `MemRead(i, off, n)` (20_memory.md R66); the sum is not wrapped. -/
@[inline] def memRead (s : State) (i : BufIx) (off n : Nat) (k : Bytes → Completion) : Completion :=
  require (decide (off + n ≤ (s.buf i).length)) .fieldOutOfRange 0 (k (slice (s.buf i) off n))

/-- `MemWrite(i, off, t)` (20_memory.md R67). -/
@[inline] def memWrite (s : State) (i : BufIx) (off : Nat) (t : Bytes) (k : State → Completion) : Completion :=
  require (decide (off + t.length ≤ (s.buf i).length)) .fieldOutOfRange 0
    (k (s.setBuf i (overwrite (s.buf i) off t)))

/-- `BitRead(i, p, w)` (20_memory.md R68), for `w` at least 1. -/
@[inline] def bitRead (s : State) (i : BufIx) (p w : Nat) (k : Nat → Completion) : Completion :=
  require (decide ((p + w - 1) / 8 < (s.buf i).length)) .fieldOutOfRange 0 (k (bitField (s.buf i) p w))

/-- `BitWrite(i, p, w, v)` (20_memory.md R68), for `w` at least 1: the low `w` bits of `v`. -/
@[inline] def bitWrite (s : State) (i : BufIx) (p w v : Nat) (k : State → Completion) : Completion :=
  require (decide ((p + w - 1) / 8 < (s.buf i).length)) .fieldOutOfRange 0
    (k (s.setBuf i (setBitField (s.buf i) p w v)))

/-- Replace `B[i]` by `b`, at most `BUF_CAP` bytes (20_memory.md R73, R74); the capacity check comes
before, by the length asked for. -/
@[inline] def replaceBuf (s : State) (i : BufIx) (length : Nat) (b : Bytes) (k : State → Completion) : Completion :=
  require (decide (length ≤ s.cfg.bufCap)) .bufferCapacity (val length) (k (s.setBuf i b))

/-- The values every piece of state takes at reset (10_state.md R45, 70_reset_and_hazards.md R301):
the parameters are no state and stay, and what the host has already issued stays with the host. -/
def resetState (s : State) : State := { State.resetFor s.cfg with inputs := s.inputs }

/-- The canonical byte form of an event (30_encoding.md R100). -/
def eventBytes (e : Event) : Bytes :=
  [(eventCode e.kind).zeroExtend 8, e.info] ++ toBe e.data.length 4 ++ e.data

/-- The canonical byte form of a response (30_encoding.md R98). -/
def responseBytes (r : Response) : Bytes :=
  [(statusCode r.status).zeroExtend 8, reasonCode r.reason] ++ toBe r.value.toNat 8 ++
    toBe r.payload.length 4 ++ r.payload ++ toBe r.events.length 2 ++ r.events.flatMap eventBytes

end Sys2Proof.Machine
end

