-- ==== Sys2Proof/Machine/Operands.lean ====
section
/-! DEFINITION. The operand forms and their checks: buffer indices, byte widths, bit widths, byte
values, header offsets and register addresses. -/

namespace Sys2Proof.Machine

/-- A command that uses the buffer operand `i` (20_memory.md R71, 40_binaryunit.md R130): the index
must be below `NBUF`. -/
@[inline] def usesBuf (s : State) (i : BufIx) (k : Completion) : Completion :=
  require (decide (i.toNat < s.cfg.nbuf)) .badBufferIndex (val i.toNat) k

/-- A width in bytes, `1 <= y <= 8` (40_binaryunit.md R139). -/
@[inline] def byteWidth (y : Scalar) (k : Nat → Completion) : Completion :=
  require (decide (1 ≤ y.toNat ∧ y.toNat ≤ maxIntBytes)) .badOperand (val y.toNat) (k y.toNat)

/-- A bit offset and a width in bits (20_memory.md R65). -/
@[inline] def bitSpan (s : State) (x y : Scalar) (k : Nat → Nat → Completion) : Completion :=
  require (decide (1 ≤ y.toNat ∧ y.toNat ≤ maxBits) && bitsSupported s.cfg (x.toNat % 8) y.toNat)
    .badBitWidth (val y.toNat) (k x.toNat y.toNat)

/-- A byte value given as a scalar, at most 255 (41_bch.md R165). -/
@[inline] def byteValue (x : Scalar) (k : Byte → Completion) : Completion :=
  require (decide (x.toNat ≤ 255)) .badOperand (val x.toNat) (k (x.setWidth 8))

/-- The bytes from offset `x` of `B[i]` on that a header needs, or `SHORT_HEADER` with the number of
bytes available (44_frame_packet.md R200 to R204): `need` bytes must be there. -/
@[inline] def headerAt (s : State) (i : BufIx) (x : Scalar) (need : Nat) (k : Bytes → Completion) : Completion :=
  let avail := (s.buf i).length - x.toNat
  require (decide (need ≤ avail)) .shortHeader (val avail) (k (slice (s.buf i) x.toNat need))

/-- The registers of the register space (10_state.md R26). -/
inductive Reg where
  | res (i : Fin 16)
  | errflags
  | bchSr
  | asmScid
  | asmVcid
  | asmVcfc
  | asmMcfc
  | asmWr
  | asmFhp
  | pktCarryLen
  | pktTarget
  | pktStatus
  | pktCtrl
deriving DecidableEq, Repr

/-- How a register answers `REG.WR` (10_state.md R26). -/
inductive Access where
  | readOnly
  | readWrite
  | writeOneToClear
deriving DecidableEq, Repr

/-- The address map of 10_state.md R26; `none` for an unimplemented address. -/
def regAt (x : Scalar) : Option Reg :=
  if h : x.toNat < 16 then some (.res ⟨x.toNat, h⟩)
  else
    match x.toNat with
    | 0x0010 => some .errflags
    | 0x0011 => some .bchSr
    | 0x0020 => some .asmScid
    | 0x0021 => some .asmVcid
    | 0x0022 => some .asmVcfc
    | 0x0023 => some .asmMcfc
    | 0x0024 => some .asmWr
    | 0x0025 => some .asmFhp
    | 0x0030 => some .pktCarryLen
    | 0x0031 => some .pktTarget
    | 0x0032 => some .pktStatus
    | 0x0033 => some .pktCtrl
    | _ => none

/-- The access column of 10_state.md R26. -/
def regAccess : Reg → Access
  | .res _ => .readOnly
  | .errflags => .writeOneToClear
  | .bchSr => .readWrite
  | .asmScid => .readWrite
  | .asmVcid => .readWrite
  | .asmVcfc => .readWrite
  | .asmMcfc => .readWrite
  | .asmWr => .readOnly
  | .asmFhp => .readOnly
  | .pktCarryLen => .readOnly
  | .pktTarget => .readOnly
  | .pktStatus => .writeOneToClear
  | .pktCtrl => .readWrite

/-- The register `PKT_TARGET` as it reads: bit 31 valid, bits 16 to 0 the target (10_state.md R35). -/
def pktTargetWord (s : State) : BitVec 32 :=
  BitVec.ofBool s.pktTargetValid ++ (0 : BitVec 14) ++ s.pktTarget

/-- What a register reads, zero-extended to 64 bits (47_system.md R256). -/
def readReg (s : State) : Reg → Value
  | .res i => s.res[i]
  | .errflags => s.errflags.setWidth 64
  | .bchSr => s.bchSr.setWidth 64
  | .asmScid => s.asmScid.setWidth 64
  | .asmVcid => s.asmVcid.setWidth 64
  | .asmVcfc => s.asmVcfc.setWidth 64
  | .asmMcfc => s.asmMcfc.setWidth 64
  | .asmWr => s.asmWr.setWidth 64
  | .asmFhp => s.asmFhp.setWidth 64
  | .pktCarryLen => (BitVec.ofNat 17 s.pktCarry.length).setWidth 64
  | .pktTarget => (pktTargetWord s).setWidth 64
  | .pktStatus => s.pktStatus.setWidth 64
  | .pktCtrl => s.pktCtrl.setWidth 64

/-- What writing `v` to a register does (47_system.md R257): a `RW` register takes the low bits it
has, a `W1C` register loses the bits written with 1, a `RO` register keeps its value (`REG.WR`
faults before it comes here). -/
def writeReg (s : State) (v : Value) : Reg → State
  | .res _ => s
  | .errflags => { s with errflags := clearOnes s.errflags (v.setWidth 6) }
  | .bchSr => { s with bchSr := v.setWidth 7 }
  | .asmScid => { s with asmScid := v.setWidth 10 }
  | .asmVcid => { s with asmVcid := v.setWidth 3 }
  | .asmVcfc => { s with asmVcfc := v.setWidth 8 }
  | .asmMcfc => { s with asmMcfc := v.setWidth 8 }
  | .asmWr => s
  | .asmFhp => s
  | .pktCarryLen => s
  | .pktTarget => s
  | .pktStatus => { s with pktStatus := clearOnes s.pktStatus (v.setWidth 3) }
  | .pktCtrl => { s with pktCtrl := v.setWidth 1 }

end Sys2Proof.Machine
end

