-- ==== Sys2Proof/Machine/Crc.lean ====
section
/-! DEFINITION. The CRC-16 function and the CRC family (43_crc16.md; layout of the trailer in
30_encoding.md R108). -/

namespace Sys2Proof.Machine

/-- One bit into the CRC register: feedback `b ^ r[15]`, mask 0x1021 (43_crc16.md R190). -/
def crcClock (r : BitVec 16) (b : Bool) : BitVec 16 :=
  if b ^^ r.getLsbD 15 then (r <<< 1) ^^^ 0x1021 else r <<< 1

/-- One byte into the CRC register, most significant bit first (43_crc16.md R190). -/
def crcByte (r : BitVec 16) (c : Byte) : BitVec 16 :=
  [7, 6, 5, 4, 3, 2, 1, 0].foldl (fun r i => crcClock r (c.getLsbD i)) r

/-- `crc16(m)`, preset 0xFFFF, no reflection and no final inversion (43_crc16.md R190). -/
def crc16 (m : Bytes) : BitVec 16 := m.foldl crcByte 0xFFFF

/-- The CRC-16 of all but the last two bytes (30_encoding.md R108). -/
def crcOfBody (b : Bytes) : BitVec 16 := crc16 (b.take (b.length - 2))

/-- The last two bytes as a number, the stored CRC of a buffer of at least 2 bytes (R108). -/
def crcStored (b : Bytes) : Nat := be (b.drop (b.length - 2))

/-- A buffer of at least 2 bytes with its trailer overwritten by its CRC (43_crc16.md R192). -/
def withCrc (b : Bytes) : Bytes := overwrite b (b.length - 2) (toBe (crcOfBody b).toNat 2)

/-- `CRC.CALC bs, x, y` (43_crc16.md R191). -/
def execCrcCalc (bs : BufIx) (x y : Scalar) (s : State) : Outcome :=
  complete s <| usesBuf s bs <|
    memRead s bs x.toNat y.toNat fun b => finish (s.setRes 0 ((crc16 b).setWidth 64))

/-- `CRC.SET bd` (43_crc16.md R192): the length does not change. -/
def execCrcSet (bd : BufIx) (s : State) : Outcome :=
  complete s <| usesBuf s bd <|
    require (decide (2 ≤ (s.buf bd).length)) .fieldOutOfRange 0 <|
      finish ((s.setBuf bd (withCrc (s.buf bd))).setRes 0 ((crcOfBody (s.buf bd)).setWidth 64))

/-- `CRC.CHK bs` (43_crc16.md R193): no buffer is written. -/
def execCrcChk (bs : BufIx) (s : State) : Outcome :=
  let c := crcOfBody (s.buf bs)
  complete s <| usesBuf s bs <|
    require (decide (2 ≤ (s.buf bs).length)) .fieldOutOfRange 0 <|
    require (decide (c.toNat = crcStored (s.buf bs))) .crcMismatch (c.setWidth 64) <|
      finish (s.setRes 0 (c.setWidth 64))

end Sys2Proof.Machine
end

