-- ==== Sys2Proof/Machine/Hdr.lean ====
section
/-! DEFINITION. The header extractors, the frame check and the TM frame splitter (44_frame_packet.md;
field tables in Machine/Params.lean). -/

namespace Sys2Proof.Machine

/-- The values of the fields of a header, in the order of its table (44_frame_packet.md R200). -/
def fieldValues (h : Bytes) (table : List (Nat × Nat)) : List Nat :=
  table.map fun f => bitField h f.1 f.2

/-- `fhp_class(p)`: 1 NO_FIRST, 2 IDLE, 0 POINTER (44_frame_packet.md R205). -/
def fhpClass (p : Nat) : Nat := if p = fhpNoFirst then 1 else if p = fhpIdle then 2 else 0

/-- `firstHeaderPointer` of a frame (30_encoding.md R110). -/
def fhpOf (f : Bytes) : Nat := bitField f 37 11

/-- The APID of a packet (30_encoding.md R116). -/
def apidOf (q : Bytes) : Nat := bitField q 5 11

/-- An idle packet: APID 2047 (30_encoding.md R117). -/
def isIdle (q : Bytes) : Bool := decide (apidOf q = idleApid)

/-- The size a packet declares, `be(q[4:6]) + 7` (30_encoding.md R117). -/
def declaredSize (q : Bytes) : Nat := be (slice q 4 2) + 7

/-- The `PACKET` event of a packet, with its `idle` flag (30_encoding.md R100). -/
def packetEvent (q : Bytes) : Event :=
  { kind := .packet, info := if isIdle q then 1 else 0, data := q }

/-- `HDR.TMF bs, x` (44_frame_packet.md R201): `RES[0]` to `RES[10]` the fields, `RES[11]` the class. -/
def execHdrTmf (bs : BufIx) (x : Scalar) (s : State) : Outcome :=
  complete s <| usesBuf s bs <| headerAt s bs x 6 fun h =>
    finish (s.setResFrom 0 ((fieldValues h tmfFields ++ [fhpClass (fhpOf h)]).map val))

/-- `HDR.TCF bs, x` (44_frame_packet.md R202): `RES[8]` is the total frame size. -/
def execHdrTcf (bs : BufIx) (x : Scalar) (s : State) : Outcome :=
  complete s <| usesBuf s bs <| headerAt s bs x 5 fun h =>
    finish (s.setResFrom 0 ((fieldValues h tcfFields ++ [bitField h 22 10 + 1]).map val))

/-- `HDR.PKT bs, x` (44_frame_packet.md R203): 7 bytes must be there, the fields lie in the first 6;
`RES[7]` is the total packet size, `RES[8]` the idle mark. -/
def execHdrPkt (bs : BufIx) (x : Scalar) (s : State) : Outcome :=
  complete s <| usesBuf s bs <| headerAt s bs x minPkt fun h =>
    finish (s.setResFrom 0
      ((fieldValues h pktFields ++ [bitField h 32 16 + 7, if isIdle h then 1 else 0]).map val))

/-- `HDR.SEG bs, x` (44_frame_packet.md R204). -/
def execHdrSeg (bs : BufIx) (x : Scalar) (s : State) : Outcome :=
  complete s <| usesBuf s bs <| headerAt s bs x 1 fun h =>
    finish (s.setResFrom 0 ((fieldValues h segFields).map val))

/-- `frame_check(f)` (44_frame_packet.md R206): size, then CRC, then pointer. The auxiliary value of
the CRC reason is the CRC computed. -/
def frameCheck (c : Config) (f : Bytes) : Except (Reason × Nat) Nat :=
  if f.length ≠ c.tmFrameSize then .error (.badFrameSize, f.length)
  else if c.tmHasCrc ∧ (crcOfBody f).toNat ≠ crcStored f then .error (.crcMismatch, (crcOfBody f).toNat)
  else if fhpClass (fhpOf f) = 0 ∧ dfLen c ≤ fhpOf f then .error (.badFhp, fhpOf f)
  else .ok (fhpOf f)

/-- The three parts of a TM data field (44_frame_packet.md R207, R208). -/
structure Parts where
  lead : Bytes
  packets : List Bytes
  trail : Bytes
deriving DecidableEq, Repr

/-- The walk over the packets from the first header on: the complete packets and the trail
(44_frame_packet.md R207). `fuel` bounds the turns; each turn that goes on uses at least 7 bytes,
so the number of bytes left is enough (assumption log 11). -/
def walkPackets : Nat → Bytes → List Bytes × Bytes
  | 0, _ => ([], [])
  | fuel + 1, d =>
    if d.length < minPkt then ([], d)
    else if declaredSize d ≤ d.length then
      let rest := walkPackets fuel (d.drop (declaredSize d))
      (d.take (declaredSize d) :: rest.1, rest.2)
    else ([], d)

/-- `tm_split(f, p)` (44_frame_packet.md R207). -/
def tmSplit (c : Config) (f : Bytes) (p : Nat) : Parts :=
  let d := slice f dfStart (dfLen c)
  if fhpClass p = 1 then { lead := d, packets := [], trail := [] }
  else if fhpClass p = 2 then { lead := [], packets := [], trail := [] }
  else
    let rest := walkPackets ((d.drop p).length + 1) (d.drop p)
    { lead := d.take p, packets := rest.1, trail := rest.2 }

/-- An event for a fragment, none when it is empty (44_frame_packet.md R209). -/
def fragmentEvent (k : EventKind) (d : Bytes) : List Event :=
  if d = [] then [] else [{ kind := k, info := 0, data := d }]

/-- The events of `TMF.SPLIT` (44_frame_packet.md R209). -/
def splitEvents (q : Parts) : List Event :=
  fragmentEvent .lead q.lead ++ q.packets.map packetEvent ++ fragmentEvent .trail q.trail

/-- `TMF.SPLIT bs` (44_frame_packet.md R209): stateless but for `RES[0]` to `RES[3]`. -/
def execTmfSplit (bs : BufIx) (s : State) : Outcome :=
  complete s <| usesBuf s bs <|
    match frameCheck s.cfg (s.buf bs) with
    | .error (r, a) => .raised r (val a)
    | .ok p =>
      let q := tmSplit s.cfg (s.buf bs) p
      finishEvents
        (s.setResFrom 0 ([q.lead.length, q.packets.length, q.trail.length, fhpClass p].map val))
        (splitEvents q)

/-- The values of a segment's `sequenceFlags` (30_encoding.md R118). -/
inductive SegmentFlags where
  | continuation
  | first
  | last
  | unsegmented
deriving DecidableEq, Repr

/-- The meaning of the two flag bits (30_encoding.md R118). -/
def segmentFlags (b : BitVec 2) : SegmentFlags :=
  if b = 0b00 then .continuation
  else if b = 0b01 then .first
  else if b = 0b10 then .last
  else .unsegmented

/-- After FIRST: CONTINUATION* LAST (44_frame_packet.md R211). -/
def segmentsEnd : List SegmentFlags → Bool
  | [.last] => true
  | .continuation :: rest => segmentsEnd rest
  | _ => false

/-- The segments of one packet, `UNSEGMENTED | FIRST CONTINUATION* LAST` (44_frame_packet.md R211):
"a checker of HDR.SEG results may assume" it; no command checks it. -/
def segmentSequence : List SegmentFlags → Bool
  | [.unsegmented] => true
  | .first :: rest => segmentsEnd rest
  | _ => false

end Sys2Proof.Machine
end

