-- ==== Sys2Proof/Machine/Asm.lean ====
section
/-! DEFINITION. The Assembler and the ASM family (45_assembler.md). -/

namespace Sys2Proof.Machine

/-- `asm_open()` (45_assembler.md R221). -/
def asmOpen (s : State) : State :=
  { s with
    asmFrame := List.replicate s.cfg.tmFrameSize 0x00
    asmWr := 0
    asmFhp := 0x7FF }

/-- The six bytes of the primary header that finalisation sets (45_assembler.md R222): version 0, the
ids, OCF flag 0, both counters, and `0x1800 + ASM_FHP`. -/
def asmHeader (s : State) : Bytes :=
  toBe (s.asmScid.toNat * 16 + s.asmVcid.toNat * 2) 2 ++ [s.asmMcfc, s.asmVcfc] ++
    toBe (0x1800 + s.asmFhp.toNat) 2

/-- The frame as it is delivered: header set, and the CRC when `TM_HAS_CRC` (45_assembler.md R222). -/
def finalFrame (s : State) : Bytes :=
  let f := overwrite s.asmFrame 0 (asmHeader s)
  if s.cfg.tmHasCrc then withCrc f else f

/-- The `FRAME` event of a finalisation (45_assembler.md R222). -/
def frameEvent (s : State) : Event := { kind := .frame, info := 0, data := finalFrame s }

/-- What finalisation leaves: both counters incremented modulo 256, a new frame open
(45_assembler.md R222). -/
def asmFinalize (s : State) : State :=
  asmOpen { s with asmVcfc := s.asmVcfc + 1, asmMcfc := s.asmMcfc + 1 }

/-- Copy `n` bytes to the next free offset (45_assembler.md R223). -/
def asmCopy (q : Bytes) (s : State) : State :=
  { s with
    asmFrame := overwrite s.asmFrame (dfStart + s.asmWr.toNat) q
    asmWr := BitVec.ofNat 11 (s.asmWr.toNat + q.length) }

/-- The loop of `asm_put` (45_assembler.md R223): copy what fits, finalise a full frame, go on with
the remainder. `fuel` bounds the turns; every turn uses at least one byte while
`ASM_WR < DF_LEN`, so `len(q)` is enough (assumption log 11). -/
def asmFill : Nat → Bytes → State → State × List Event
  | 0, _, s => (s, [])
  | fuel + 1, q, s =>
    if q = [] then (s, [])
    else
      let n := min q.length (dfLen s.cfg - s.asmWr.toNat)
      let t := asmCopy (q.take n) s
      if t.asmWr.toNat = dfLen s.cfg then
        let r := asmFill fuel (q.drop n) (asmFinalize t)
        (r.1, frameEvent t :: r.2)
      else asmFill fuel (q.drop n) t

/-- `asm_put(q)` (45_assembler.md R223): the pointer is set when `q` is the first packet to start in
the frame. -/
def asmPut (q : Bytes) (s : State) : State × List Event :=
  asmFill (q.length + 1) q
    (if s.asmFhp.toNat = fhpNoFirst then { s with asmFhp := s.asmWr } else s)

/-- `ASM.PUSH bs` (45_assembler.md R224). -/
def execAsmPush (bs : BufIx) (s : State) : Outcome :=
  let q := s.buf bs
  complete s <| usesBuf s bs <|
    require (decide (minPkt ≤ q.length)) .badPacketLength (val q.length) <|
    require (decide (q.length = declaredSize q)) .badPacketLength (val q.length) <|
      let r := asmPut q s
      finishEvents (r.1.setRes 0 (val r.2.length)) r.2

/-- `idle_packet(L)` (45_assembler.md R225). -/
def idlePacket (c : Config) (n : Nat) : Bytes :=
  [0x07, 0xFF, 0xC0, 0x00] ++ toBe (n - 7) 2 ++ List.replicate (n - 6) c.idleFillByte

/-- The loop of `ASM.FLUSH` (45_assembler.md R226), at most `fuel` turns. -/
def asmFlushLoop : Nat → State → State × List Event
  | 0, s => (s, [])
  | fuel + 1, s =>
    if s.asmWr = 0 then (s, [])
    else
      let r := asmPut (idlePacket s.cfg (max (dfLen s.cfg - s.asmWr.toNat) 7)) s
      let r' := asmFlushLoop fuel r.1
      (r'.1, r.2 ++ r'.2)

/-- `ASM.FLUSH` (45_assembler.md R226): "The loop runs at most twice because DF_LEN >= 13"
(assumption log 11). -/
def execAsmFlush (s : State) : Outcome :=
  let r := asmFlushLoop 2 s
  complete s (finishEvents (r.1.setRes 0 (val r.2.length)) r.2)

/-- `ASM.INIT` (45_assembler.md R227): the open frame is dropped without an event; ids, counters and
`RES` stay. -/
def execAsmInit (s : State) : Outcome := complete s (finish (asmOpen s))

end Sys2Proof.Machine
end

