-- ==== Sys2Proof/Machine/Bch.lean ====
section
/-! DEFINITION. The BCH(63,56) shift register, its transition table and check byte, and the BCH family
(41_bch.md). -/

namespace Sys2Proof.Machine

/-- One clock of the register with input bit `b`: feedback `b ^ s[6]`, mask 0x45 (41_bch.md R161). -/
def bchClock (s : BitVec 7) (b : Bool) : BitVec 7 :=
  if b ^^ s.getLsbD 6 then (s <<< 1) ^^^ 0x45 else s <<< 1

/-- One byte, most significant bit first (41_bch.md R162). -/
def bchNext (s : BitVec 7) (c : Byte) : BitVec 7 :=
  [7, 6, 5, 4, 3, 2, 1, 0].foldl (fun s i => bchClock s (c.getLsbD i)) s

/-- The transition table `T[s][b]`, a constant (10_state.md R38, 41_bch.md R163). -/
def bchTable (s : BitVec 7) (c : Byte) : BitVec 7 := bchNext s c

/-- `encodeStop`: the inverted state in the 7 most significant bits, bit 0 zero (30_encoding.md R105,
41_bch.md R166). -/
def checkByte (s : BitVec 7) : Byte := ((s ^^^ 0x7F).setWidth 8 <<< 1) &&& 0xFE

/-- `bch_check(d)`: the check byte of the data bytes of a code block (41_bch.md R167). -/
def bchCheck (d : Bytes) : Byte := checkByte (d.foldl bchTable 0)

/-- `BCH.START` (41_bch.md R164). -/
def execBchStart (s : State) : Outcome :=
  complete s (finish ({ s with bchSr := 0 }.setRes 0 0))

/-- `BCH.STEP x` (41_bch.md R165). -/
def execBchStep (x : Scalar) (s : State) : Outcome :=
  complete s <| byteValue x fun c =>
    finish ({ s with bchSr := bchTable s.bchSr c }.setRes 0 ((bchTable s.bchSr c).setWidth 64))

/-- `BCH.STOP` (41_bch.md R166): `BCH_SR` is not changed. -/
def execBchStop (s : State) : Outcome :=
  complete s (finish (s.setRes 0 ((checkByte s.bchSr).setWidth 64)))

end Sys2Proof.Machine
end

