-- ==== Sys2Proof/Machine/Bu.lean ====
section
/-! DEFINITION. The BU family: buffers, bit fields, integers and byte runs (40_binaryunit.md). -/

namespace Sys2Proof.Machine

/-- `BU.NEW bd, x` (40_binaryunit.md R131): `x` zero bytes. -/
def execBuNew (bd : BufIx) (x : Scalar) (s : State) : Outcome :=
  complete s <| usesBuf s bd <|
    replaceBuf s bd x.toNat (List.replicate x.toNat 0x00) fun t =>
      finish (t.setRes 0 (val x.toNat))

/-- `BU.LOAD bd, payload` (40_binaryunit.md R132): a copy of the payload. -/
def execBuLoad (bd : BufIx) (payload : Bytes) (s : State) : Outcome :=
  complete s <| usesBuf s bd <|
    replaceBuf s bd payload.length payload fun t =>
      finish (t.setRes 0 (val payload.length))

/-- `BU.LEN bs` (40_binaryunit.md R133). -/
def execBuLen (bs : BufIx) (s : State) : Outcome :=
  complete s <| usesBuf s bs <|
    finish (s.setRes 0 (val (s.buf bs).length))

/-- `b` made `n` bytes long: "zero-extend or truncate-with-loss" (40_binaryunit.md R134,
20_memory.md R73). -/
def withLength (b : Bytes) (n : Nat) : Bytes :=
  if b.length ≤ n then b ++ List.replicate (n - b.length) 0x00 else b.take n

/-- `BU.SETLEN bd, x` (40_binaryunit.md R134). -/
def execBuSetlen (bd : BufIx) (x : Scalar) (s : State) : Outcome :=
  complete s <| usesBuf s bd <|
    replaceBuf s bd x.toNat (withLength (s.buf bd) x.toNat) fun t =>
      finish (t.setRes 0 (val x.toNat))

/-- `BU.APPEND bd, payload` (40_binaryunit.md R135). -/
def execBuAppend (bd : BufIx) (payload : Bytes) (s : State) : Outcome :=
  let n := (s.buf bd).length + payload.length
  complete s <| usesBuf s bd <|
    replaceBuf s bd n (s.buf bd ++ payload) fun t =>
      finish (t.setRes 0 (val n))

/-- `BU.GETBITS bs, x, y` (40_binaryunit.md R136). -/
def execBuGetbits (bs : BufIx) (x y : Scalar) (s : State) : Outcome :=
  complete s <| usesBuf s bs <| bitSpan s x y fun p w =>
    bitRead s bs p w fun n => finish (s.setRes 0 (val n))

/-- `BU.SETBITS bd, x, y, v` (40_binaryunit.md R137): no `RES` register is written. -/
def execBuSetbits (bd : BufIx) (x y : Scalar) (v : Value) (s : State) : Outcome :=
  complete s <| usesBuf s bd <| bitSpan s x y fun p w =>
    bitWrite s bd p w v.toNat finish

/-- `BU.GETU bs, x, y` (40_binaryunit.md R141). -/
def execBuGetu (bs : BufIx) (x y : Scalar) (s : State) : Outcome :=
  complete s <| usesBuf s bs <| byteWidth y fun n =>
    memRead s bs x.toNat n fun b => finish (s.setRes 0 (val (be b)))

/-- `sext_64(u, 8 * n)` (00_scope.md R13, 40_binaryunit.md R142). -/
def signed64 (u n : Nat) : Value := (BitVec.ofNat (8 * n) u).signExtend 64

/-- `BU.GETS bs, x, y` (40_binaryunit.md R142). -/
def execBuGets (bs : BufIx) (x y : Scalar) (s : State) : Outcome :=
  complete s <| usesBuf s bs <| byteWidth y fun n =>
    memRead s bs x.toNat n fun b => finish (s.setRes 0 (signed64 (be b) n))

/-- `BU.SETU bd, x, y, v` (40_binaryunit.md R143): the low `8y` bits, no `RES` register is written. -/
def execBuSetu (bd : BufIx) (x y : Scalar) (v : Value) (s : State) : Outcome :=
  complete s <| usesBuf s bd <| byteWidth y fun n =>
    memWrite s bd x.toNat (toBe v.toNat n) finish

/-- `BU.SETS bd, x, y, v` (40_binaryunit.md R144): the bytes `BU.SETU` writes for the same `v`. -/
def execBuSets (bd : BufIx) (x y : Scalar) (v : Value) (s : State) : Outcome :=
  complete s <| usesBuf s bd <| byteWidth y fun n =>
    memWrite s bd x.toNat (toBe v.toNat n) finish

/-- `BU.GETBYTES bs, x, y` (40_binaryunit.md R145): the bytes go into the payload of the response. -/
def execBuGetbytes (bs : BufIx) (x y : Scalar) (s : State) : Outcome :=
  complete s <| usesBuf s bs <|
    memRead s bs x.toNat y.toNat fun b => .done s s.res[0] b []

/-- `BU.SETBYTES bd, x, payload` (40_binaryunit.md R146): no `RES` register is written. -/
def execBuSetbytes (bd : BufIx) (x : Scalar) (payload : Bytes) (s : State) : Outcome :=
  complete s <| usesBuf s bd <|
    memWrite s bd x.toNat payload finish

end Sys2Proof.Machine
end

