-- ==== Sys2Proof/Machine/Cltu.lean ====
section
/-! DEFINITION. Building, validating and parsing CLTUs (42_cltu.md; layout in 30_encoding.md R104 to
R107). The CLTU unit has a register of its own, so `BCH_SR` is neither read nor written
(10_state.md R42). -/

namespace Sys2Proof.Machine

/-- `CLTU_START` (42_cltu.md R175). -/
def cltuStart : Bytes := [0xEB, 0x90]

/-- `CLTU_TRAILER` (42_cltu.md R175). -/
def cltuTrailer : Bytes := List.replicate 8 0x55

/-- The number of code blocks for a frame of `n` bytes, `ceil(n / 7)` (42_cltu.md R176). -/
def blockCount (n : Nat) : Nat := (n + 6) / 7

/-- One group of a frame as a code block: filled with 0x55 up to 7 bytes, and its check byte
(30_encoding.md R104, R107; 42_cltu.md R176). -/
def codeBlock (group : Bytes) : Bytes :=
  let g := group ++ List.replicate (7 - group.length) 0x55
  g ++ [bchCheck g]

/-- The first `k` code blocks of a frame (42_cltu.md R176). -/
def codeBlocks : Nat → Bytes → Bytes
  | 0, _ => []
  | k + 1, f => codeBlock (f.take 7) ++ codeBlocks k (f.drop 7)

/-- `cltu_encode(f)` (42_cltu.md R176). -/
def cltuEncode (f : Bytes) : Bytes :=
  cltuStart ++ codeBlocks (blockCount f.length) f ++ cltuTrailer

/-- The index of the first of `k` code blocks whose 8th byte is not its check byte, counted from
`i` on; the whole byte is compared (42_cltu.md R178). -/
def firstBadBlock : Nat → Nat → Bytes → Option Nat
  | 0, _, _ => none
  | k + 1, i, body =>
    if bchCheck (body.take 7) = body.getD 7 0 then firstBadBlock k (i + 1) (body.drop 8) else some i

/-- `cltu_validate(c)` (42_cltu.md R178): the number of code blocks, or the first check that fails. -/
def cltuValidate (c : Bytes) : Except (Reason × Nat) Nat :=
  let n := c.length
  if n < 10 then .error (.cltuTooShort, n)
  else if (n - 10) % 8 ≠ 0 then .error (.cltuBadLength, n)
  else if c.take 2 ≠ cltuStart then .error (.cltuBadStart, be (c.take 2))
  else if c.drop (n - 8) ≠ cltuTrailer then .error (.cltuBadTrailer, 0)
  else
    match firstBadBlock ((n - 10) / 8) 0 (c.drop 2) with
    | some i => .error (.bchMismatch, i)
    | none => .ok ((n - 10) / 8)

/-- The data bytes of the first `k` code blocks: bytes 0 to 6 of each (42_cltu.md R179). -/
def blockData : Nat → Bytes → Bytes
  | 0, _ => []
  | k + 1, body => body.take 7 ++ blockData k (body.drop 8)

/-- `CLTU.ENC bd, bs` (42_cltu.md R177): `bs` is checked before `bd` (60_exceptions.md R279). -/
def execCltuEnc (bd bs : BufIx) (s : State) : Outcome :=
  let n := 10 + 8 * blockCount (s.buf bs).length
  complete s <| usesBuf s bs <| usesBuf s bd <|
    replaceBuf s bd n (cltuEncode (s.buf bs)) fun t =>
      finish (t.setRes 0 (val (t.buf bd).length))

/-- `CLTU.DEC bd, bs` (42_cltu.md R179): no capacity fault can occur. -/
def execCltuDec (bd bs : BufIx) (s : State) : Outcome :=
  complete s <| usesBuf s bs <| usesBuf s bd <|
    match cltuValidate (s.buf bs) with
    | .error (r, a) => .raised r (val a)
    | .ok k => finish ((s.setBuf bd (blockData k ((s.buf bs).drop 2))).setRes 0 (val (7 * k)))

/-- `CLTU.CHK bs` (42_cltu.md R180): no buffer is written. -/
def execCltuChk (bs : BufIx) (s : State) : Outcome :=
  complete s <| usesBuf s bs <|
    match cltuValidate (s.buf bs) with
    | .error (r, a) => .raised r (val a)
    | .ok k => finish (s.setRes 0 (val k))

end Sys2Proof.Machine
end

