-- ==== Sys2Proof/Machine/Pkt.lean ====
section
/-! DEFINITION. The Packetizer and the PKT family (46_packetizer.md). -/

namespace Sys2Proof.Machine

/-- Set `PKT_CARRY` and then `pkt_parse_target()` (46_packetizer.md R236): the target is valid exactly
when 7 bytes or more are carried. -/
def setCarry (b : Bytes) (s : State) : State :=
  if minPkt ≤ b.length then
    { s with pktCarry := b, pktTargetValid := true, pktTarget := BitVec.ofNat 17 (declaredSize b) }
  else { s with pktCarry := b, pktTargetValid := false, pktTarget := 0 }

/-- `PKT_STATUS` with bits set; they are sticky (10_state.md R36). -/
def setPktStatus (bits : BitVec 3) (s : State) : State := { s with pktStatus := s.pktStatus ||| bits }

/-- `pkt_deliver(q)` (46_packetizer.md R237): an idle packet is dropped when `DROP_IDLE` is 1. -/
def deliver (s : State) (q : Bytes) : List Event :=
  if isIdle q ∧ s.pktCtrl = 1 then [] else [packetEvent q]

/-- Why the in-flight packet is discarded (46_packetizer.md R238). -/
inductive Discard where
  | truncated
  | overrun
  | cleared
deriving DecidableEq, Repr

/-- The discard reason in a `DISCARD` event (30_encoding.md R100). -/
def discardCode : Discard → BitVec 8
  | .truncated => 1
  | .overrun => 2
  | .cleared => 3

/-- The status bit a discard sets (46_packetizer.md R238). -/
def discardBit : Discard → BitVec 3
  | .truncated => truncatedBit
  | .overrun => overrunBit
  | .cleared => truncatedBit

/-- `pkt_discard(reason)` (46_packetizer.md R238): the event carries the bytes. -/
def discardCarry (d : Discard) (s : State) : State × List Event :=
  (setCarry [] (setPktStatus (discardBit d) s),
   [{ kind := .discard, info := discardCode d, data := s.pktCarry }])

/-- Step 1 of `PKT.PUSH`, the leading fragment, for a frame of class `cls` (46_packetizer.md R239). -/
def pktLead (cls : Nat) (lead : Bytes) (s : State) : State × List Event :=
  if lead = [] then
    if cls = 0 ∧ s.pktCarry ≠ [] then discardCarry .truncated s else (s, [])
  else
    let t := setCarry (s.pktCarry ++ lead) (if s.pktCarry = [] then setPktStatus orphanBit s else s)
    if t.pktTargetValid ∧ t.pktCarry.length = t.pktTarget.toNat then
      (setCarry [] t, deliver t t.pktCarry)
    else if t.pktTargetValid ∧ t.pktTarget.toNat < t.pktCarry.length then discardCarry .overrun t
    else if cls = 0 then discardCarry .truncated t
    else (t, [])

/-- Step 3 of `PKT.PUSH`: the trailing fragment becomes the carry (46_packetizer.md R239). -/
def pktTrail (trail : Bytes) (s : State) : State := if trail = [] then s else setCarry trail s

/-- The three steps of `PKT.PUSH` on a checked frame; an idle frame (class 2) does nothing
(46_packetizer.md R239). -/
def pktAccept (cls : Nat) (q : Parts) (s : State) : State × List Event :=
  if cls = 2 then (s, [])
  else
    let r := pktLead cls q.lead s
    (pktTrail q.trail r.1, r.2 ++ q.packets.flatMap (deliver s))

/-- `PKT.PUSH bs` (46_packetizer.md R239). -/
def execPktPush (bs : BufIx) (s : State) : Outcome :=
  complete s <| usesBuf s bs <|
    match frameCheck s.cfg (s.buf bs) with
    | .error (r, a) => .raised r (val a)
    | .ok p =>
      let r := pktAccept (fhpClass p) (tmSplit s.cfg (s.buf bs) p) s
      finishEvents (r.1.setResFrom 0 [val r.2.length, val (fhpClass p)]) r.2

/-- `PKT.CLEAR` (46_packetizer.md R240). -/
def execPktClear (s : State) : Outcome :=
  let r := if s.pktCarry = [] then (s, []) else discardCarry .cleared s
  complete s (finishEvents (r.1.setRes 0 (val s.pktCarry.length)) r.2)

end Sys2Proof.Machine
end

