-- ==== Sys2Proof/Machine/Sys.lean ====
section
/-! DEFINITION. The SYS family (47_system.md). -/

namespace Sys2Proof.Machine

/-- `NOP` (47_system.md R255): changes no state. -/
def execNop (s : State) : Outcome := complete s (finish s)

/-- `REG.RD x` (47_system.md R256): the one command whose response value is not `RES[0]`. -/
def execRegRd (x : Scalar) (s : State) : Outcome :=
  complete s <|
    match regAt x with
    | none => .raised .badRegAddr (val x.toNat)
    | some r => .done s (readReg s r) [] []

/-- `REG.WR x, v` (47_system.md R257). -/
def execRegWr (x : Scalar) (v : Value) (s : State) : Outcome :=
  complete s <|
    match regAt x with
    | none => .raised .badRegAddr (val x.toNat)
    | some r =>
      require (decide (regAccess r ≠ .readOnly)) .readOnlyReg (val x.toNat) <|
        finish (writeReg s v r)

/-- `SRESET` (47_system.md R258): every piece of state to its reset value, no event. -/
def execSreset (s : State) : Outcome := complete s (finish (resetState s))

end Sys2Proof.Machine
end

