-- ==== Sys2Proof/Syntax.lean ====
section
/-! DEFINITION. The 36 commands of SPL-CORE-CMD-1 (30_encoding.md R94), one constructor per row of
spec/opcode_table.json, each with the operands its row uses and no other: a field of the command
word that the row marks as ignored is no operand (R96). The payload of `BU.LOAD`, `BU.APPEND` and
`BU.SETBYTES` is an operand of the command (00_scope.md R17, 30_encoding.md R90). -/

namespace Sys2Proof

inductive Instr where
  /-- `NOP` (47_system.md R255). -/
  | nop
  /-- `REG.RD x`, `x` the register address (47_system.md R256). -/
  | regRd (x : Scalar)
  /-- `REG.WR x, v` (47_system.md R257). -/
  | regWr (x : Scalar) (v : Value)
  /-- `SRESET` (47_system.md R258). -/
  | sreset
  /-- `BU.NEW bd, x`, `x` the size (40_binaryunit.md R131). -/
  | buNew (bd : BufIx) (x : Scalar)
  /-- `BU.LOAD bd, payload` (40_binaryunit.md R132). -/
  | buLoad (bd : BufIx) (payload : Bytes)
  /-- `BU.LEN bs` (40_binaryunit.md R133). -/
  | buLen (bs : BufIx)
  /-- `BU.SETLEN bd, x`, `x` the new length (40_binaryunit.md R134). -/
  | buSetlen (bd : BufIx) (x : Scalar)
  /-- `BU.APPEND bd, payload` (40_binaryunit.md R135). -/
  | buAppend (bd : BufIx) (payload : Bytes)
  /-- `BU.GETBITS bs, x, y`, bit offset and width in bits (40_binaryunit.md R136). -/
  | buGetbits (bs : BufIx) (x y : Scalar)
  /-- `BU.SETBITS bd, x, y, v` (40_binaryunit.md R137). -/
  | buSetbits (bd : BufIx) (x y : Scalar) (v : Value)
  /-- `BU.GETU bs, x, y`, byte offset and width in bytes (40_binaryunit.md R141). -/
  | buGetu (bs : BufIx) (x y : Scalar)
  /-- `BU.GETS bs, x, y` (40_binaryunit.md R142). -/
  | buGets (bs : BufIx) (x y : Scalar)
  /-- `BU.SETU bd, x, y, v` (40_binaryunit.md R143). -/
  | buSetu (bd : BufIx) (x y : Scalar) (v : Value)
  /-- `BU.SETS bd, x, y, v` (40_binaryunit.md R144). -/
  | buSets (bd : BufIx) (x y : Scalar) (v : Value)
  /-- `BU.GETBYTES bs, x, y`, byte offset and count (40_binaryunit.md R145). -/
  | buGetbytes (bs : BufIx) (x y : Scalar)
  /-- `BU.SETBYTES bd, x, payload` (40_binaryunit.md R146). -/
  | buSetbytes (bd : BufIx) (x : Scalar) (payload : Bytes)
  /-- `BCH.START` (41_bch.md R164). -/
  | bchStart
  /-- `BCH.STEP x`, `x` the byte value (41_bch.md R165). -/
  | bchStep (x : Scalar)
  /-- `BCH.STOP` (41_bch.md R166). -/
  | bchStop
  /-- `CLTU.ENC bd, bs` (42_cltu.md R177). -/
  | cltuEnc (bd bs : BufIx)
  /-- `CLTU.DEC bd, bs` (42_cltu.md R179). -/
  | cltuDec (bd bs : BufIx)
  /-- `CLTU.CHK bs` (42_cltu.md R180). -/
  | cltuChk (bs : BufIx)
  /-- `CRC.CALC bs, x, y`, byte offset and count (43_crc16.md R191). -/
  | crcCalc (bs : BufIx) (x y : Scalar)
  /-- `CRC.SET bd` (43_crc16.md R192). -/
  | crcSet (bd : BufIx)
  /-- `CRC.CHK bs` (43_crc16.md R193). -/
  | crcChk (bs : BufIx)
  /-- `HDR.TMF bs, x`, `x` the byte offset of the header (44_frame_packet.md R201). -/
  | hdrTmf (bs : BufIx) (x : Scalar)
  /-- `HDR.TCF bs, x` (44_frame_packet.md R202). -/
  | hdrTcf (bs : BufIx) (x : Scalar)
  /-- `HDR.PKT bs, x` (44_frame_packet.md R203). -/
  | hdrPkt (bs : BufIx) (x : Scalar)
  /-- `HDR.SEG bs, x` (44_frame_packet.md R204). -/
  | hdrSeg (bs : BufIx) (x : Scalar)
  /-- `TMF.SPLIT bs` (44_frame_packet.md R209). -/
  | tmfSplit (bs : BufIx)
  /-- `ASM.PUSH bs` (45_assembler.md R224). -/
  | asmPush (bs : BufIx)
  /-- `ASM.FLUSH` (45_assembler.md R226). -/
  | asmFlush
  /-- `ASM.INIT` (45_assembler.md R227). -/
  | asmInit
  /-- `PKT.PUSH bs` (46_packetizer.md R239). -/
  | pktPush (bs : BufIx)
  /-- `PKT.CLEAR` (46_packetizer.md R240). -/
  | pktClear
deriving DecidableEq, Repr

/-- The payload that accompanies a command; empty for every command that uses none
(30_encoding.md R90). -/
def Instr.payload : Instr → Bytes
  | .buLoad _ p => p
  | .buAppend _ p => p
  | .buSetbytes _ _ p => p
  | _ => []

end Sys2Proof
end

