-- ==== Sys2Proof/Machine/Dispatch.lean ====
section
/-! DEFINITION. One arm per command, in the order of spec/opcode_table.json. -/

namespace Sys2Proof.Machine

def exec (i : Instr) (s : State) : Host.Outcome State Fault Refusal :=
  match i with
  | .nop => Sys2Proof.Machine.execNop s
  | .regRd x => Sys2Proof.Machine.execRegRd x s
  | .regWr x v => Sys2Proof.Machine.execRegWr x v s
  | .sreset => Sys2Proof.Machine.execSreset s
  | .buNew bd x => Sys2Proof.Machine.execBuNew bd x s
  | .buLoad bd payload => Sys2Proof.Machine.execBuLoad bd payload s
  | .buLen bs => Sys2Proof.Machine.execBuLen bs s
  | .buSetlen bd x => Sys2Proof.Machine.execBuSetlen bd x s
  | .buAppend bd payload => Sys2Proof.Machine.execBuAppend bd payload s
  | .buGetbits bs x y => Sys2Proof.Machine.execBuGetbits bs x y s
  | .buSetbits bd x y v => Sys2Proof.Machine.execBuSetbits bd x y v s
  | .buGetu bs x y => Sys2Proof.Machine.execBuGetu bs x y s
  | .buGets bs x y => Sys2Proof.Machine.execBuGets bs x y s
  | .buSetu bd x y v => Sys2Proof.Machine.execBuSetu bd x y v s
  | .buSets bd x y v => Sys2Proof.Machine.execBuSets bd x y v s
  | .buGetbytes bs x y => Sys2Proof.Machine.execBuGetbytes bs x y s
  | .buSetbytes bd x payload => Sys2Proof.Machine.execBuSetbytes bd x payload s
  | .bchStart => Sys2Proof.Machine.execBchStart s
  | .bchStep x => Sys2Proof.Machine.execBchStep x s
  | .bchStop => Sys2Proof.Machine.execBchStop s
  | .cltuEnc bd bs => Sys2Proof.Machine.execCltuEnc bd bs s
  | .cltuDec bd bs => Sys2Proof.Machine.execCltuDec bd bs s
  | .cltuChk bs => Sys2Proof.Machine.execCltuChk bs s
  | .crcCalc bs x y => Sys2Proof.Machine.execCrcCalc bs x y s
  | .crcSet bd => Sys2Proof.Machine.execCrcSet bd s
  | .crcChk bs => Sys2Proof.Machine.execCrcChk bs s
  | .hdrTmf bs x => Sys2Proof.Machine.execHdrTmf bs x s
  | .hdrTcf bs x => Sys2Proof.Machine.execHdrTcf bs x s
  | .hdrPkt bs x => Sys2Proof.Machine.execHdrPkt bs x s
  | .hdrSeg bs x => Sys2Proof.Machine.execHdrSeg bs x s
  | .tmfSplit bs => Sys2Proof.Machine.execTmfSplit bs s
  | .asmPush bs => Sys2Proof.Machine.execAsmPush bs s
  | .asmFlush => Sys2Proof.Machine.execAsmFlush s
  | .asmInit => Sys2Proof.Machine.execAsmInit s
  | .pktPush bs => Sys2Proof.Machine.execPktPush bs s
  | .pktClear => Sys2Proof.Machine.execPktClear s

end Sys2Proof.Machine
end

