-- ==== Sys2Proof/WellFormed.lean ====
section
/-! DEFINITION. What makes a command well formed. Every operand but the payload is a field of the
command word and cannot leave its range; the payload has "0 to 2^32 - 1 bytes" (30_encoding.md
R90). Whether a buffer exists, a register address is mapped or a width is legal is no matter of
form: the command is executed and completes with a fault (60_exceptions.md R275). -/

namespace Sys2Proof

/-- The payload bound of 30_encoding.md R90. -/
def payloadFits (p : Bytes) : Bool := decide (p.length < 4294967296)

/-- A well-formed command: its payload fits (30_encoding.md R90). -/
def Instr.wellFormed : Instr → Bool
  | .buLoad _ p => payloadFits p
  | .buAppend _ p => payloadFits p
  | .buSetbytes _ _ p => payloadFits p
  | _ => true

end Sys2Proof
end

