-- ==== Sys2Proof/Decode.lean ====
section
/-! DEFINITION. The decoder of command words and, after it, the encoder (30_encoding.md R90 to R97).
A word is refused by name; a refusal of a word is not a stop of the machine (the machine then
completes with `IllegalCommand`, see Machine/Fetch.lean). -/

namespace Sys2Proof

/-- The fields of a command word (30_encoding.md R91). -/
structure Fields where
  op : BitVec 8
  bd : BufIx
  bs : BufIx
  rsv : BitVec 16
  x : Scalar
  y : Scalar
  v : Value
deriving DecidableEq, Repr

/-- Why a command word and its payload are no command of the table. -/
inductive WordReject where
  /-- The payload is longer than R90 allows (93_implementation_defined.md U14). -/
  | payloadTooLong (length : Nat)
  /-- `rsv` is not 0 (30_encoding.md R96). -/
  | reservedNonzero (rsv : BitVec 16)
  /-- `op` is one of the 220 undefined values (30_encoding.md R95). -/
  | undefinedOpcode (op : BitVec 8)
deriving DecidableEq, Repr

/-- Why a byte string is no command of the table. -/
inductive ByteReject where
  /-- A command word has 20 bytes on a byte-wide transport (30_encoding.md R92). -/
  | notTwentyBytes (length : Nat)
  /-- The 20 bytes are a word that is refused. -/
  | word (why : WordReject)
deriving DecidableEq, Repr

/-- The bit slices of 30_encoding.md R91. -/
def fieldsOf (w : CmdWord) : Fields :=
  { op := w.extractLsb' 152 8
    bd := w.extractLsb' 148 4
    bs := w.extractLsb' 144 4
    rsv := w.extractLsb' 128 16
    x := w.extractLsb' 96 32
    y := w.extractLsb' 64 32
    v := w.extractLsb' 0 64 }

/-- The opcode map of 30_encoding.md R94: the command that `op` selects, with the operands its row
uses; every other field is ignored (R96). `none` for an undefined opcode (R95). -/
def selectOp (f : Fields) (p : Bytes) : Option Instr :=
  match f.op.toNat with
  | 0x00 => some .nop
  | 0x01 => some (.regRd f.x)
  | 0x02 => some (.regWr f.x f.v)
  | 0x03 => some .sreset
  | 0x10 => some (.buNew f.bd f.x)
  | 0x11 => some (.buLoad f.bd p)
  | 0x12 => some (.buLen f.bs)
  | 0x13 => some (.buSetlen f.bd f.x)
  | 0x14 => some (.buAppend f.bd p)
  | 0x15 => some (.buGetbits f.bs f.x f.y)
  | 0x16 => some (.buSetbits f.bd f.x f.y f.v)
  | 0x17 => some (.buGetu f.bs f.x f.y)
  | 0x18 => some (.buGets f.bs f.x f.y)
  | 0x19 => some (.buSetu f.bd f.x f.y f.v)
  | 0x1A => some (.buSets f.bd f.x f.y f.v)
  | 0x1B => some (.buGetbytes f.bs f.x f.y)
  | 0x1C => some (.buSetbytes f.bd f.x p)
  | 0x20 => some .bchStart
  | 0x21 => some (.bchStep f.x)
  | 0x22 => some .bchStop
  | 0x30 => some (.cltuEnc f.bd f.bs)
  | 0x31 => some (.cltuDec f.bd f.bs)
  | 0x32 => some (.cltuChk f.bs)
  | 0x40 => some (.crcCalc f.bs f.x f.y)
  | 0x41 => some (.crcSet f.bd)
  | 0x42 => some (.crcChk f.bs)
  | 0x50 => some (.hdrTmf f.bs f.x)
  | 0x51 => some (.hdrTcf f.bs f.x)
  | 0x52 => some (.hdrPkt f.bs f.x)
  | 0x53 => some (.hdrSeg f.bs f.x)
  | 0x54 => some (.tmfSplit f.bs)
  | 0x60 => some (.asmPush f.bs)
  | 0x61 => some .asmFlush
  | 0x62 => some .asmInit
  | 0x70 => some (.pktPush f.bs)
  | 0x71 => some .pktClear
  | _ => none

/-- Decode a command word and the payload beside it. `RESERVED_NONZERO` is found before
`UNDEFINED_OPCODE` (30_encoding.md R96, 60_exceptions.md R279). -/
def decode (w : CmdWord) (p : Bytes) : Except WordReject Instr :=
  let f := fieldsOf w
  if payloadFits p then
    if f.rsv = 0 then
      match selectOp f p with
      | some i => .ok i
      | none => .error (.undefinedOpcode f.op)
    else .error (.reservedNonzero f.rsv)
  else .error (.payloadTooLong p.length)

/-- Decode a command from the bytes of a byte-wide transport: 20 bytes, most significant byte
first (30_encoding.md R92), and the payload. Total on every byte string. -/
def decodeBytes (bs : Bytes) (p : Bytes) : Except ByteReject Instr :=
  if bs.length = 20 then
    match decode (BitVec.ofNat 160 (Machine.be bs)) p with
    | .ok i => .ok i
    | .error e => .error (.word e)
  else .error (.notTwentyBytes bs.length)

/-- The 20 bytes of a command word, most significant byte first (30_encoding.md R92). -/
def wordBytes (w : CmdWord) : Bytes := Machine.toBe w.toNat 20

/-- The word with the given fields (30_encoding.md R91). -/
def packFields (f : Fields) : CmdWord :=
  f.op ++ f.bd ++ f.bs ++ f.rsv ++ f.x ++ f.y ++ f.v

/-- The fields of a command: the operation code of 30_encoding.md R94, the operands the row uses,
`rsv` 0 (R96) and every unused field 0 (R102). -/
def encodeFields : Instr → Fields
  | .nop => ⟨0x00, 0, 0, 0, 0, 0, 0⟩
  | .regRd x => ⟨0x01, 0, 0, 0, x, 0, 0⟩
  | .regWr x v => ⟨0x02, 0, 0, 0, x, 0, v⟩
  | .sreset => ⟨0x03, 0, 0, 0, 0, 0, 0⟩
  | .buNew bd x => ⟨0x10, bd, 0, 0, x, 0, 0⟩
  | .buLoad bd _ => ⟨0x11, bd, 0, 0, 0, 0, 0⟩
  | .buLen bs => ⟨0x12, 0, bs, 0, 0, 0, 0⟩
  | .buSetlen bd x => ⟨0x13, bd, 0, 0, x, 0, 0⟩
  | .buAppend bd _ => ⟨0x14, bd, 0, 0, 0, 0, 0⟩
  | .buGetbits bs x y => ⟨0x15, 0, bs, 0, x, y, 0⟩
  | .buSetbits bd x y v => ⟨0x16, bd, 0, 0, x, y, v⟩
  | .buGetu bs x y => ⟨0x17, 0, bs, 0, x, y, 0⟩
  | .buGets bs x y => ⟨0x18, 0, bs, 0, x, y, 0⟩
  | .buSetu bd x y v => ⟨0x19, bd, 0, 0, x, y, v⟩
  | .buSets bd x y v => ⟨0x1A, bd, 0, 0, x, y, v⟩
  | .buGetbytes bs x y => ⟨0x1B, 0, bs, 0, x, y, 0⟩
  | .buSetbytes bd x _ => ⟨0x1C, bd, 0, 0, x, 0, 0⟩
  | .bchStart => ⟨0x20, 0, 0, 0, 0, 0, 0⟩
  | .bchStep x => ⟨0x21, 0, 0, 0, x, 0, 0⟩
  | .bchStop => ⟨0x22, 0, 0, 0, 0, 0, 0⟩
  | .cltuEnc bd bs => ⟨0x30, bd, bs, 0, 0, 0, 0⟩
  | .cltuDec bd bs => ⟨0x31, bd, bs, 0, 0, 0, 0⟩
  | .cltuChk bs => ⟨0x32, 0, bs, 0, 0, 0, 0⟩
  | .crcCalc bs x y => ⟨0x40, 0, bs, 0, x, y, 0⟩
  | .crcSet bd => ⟨0x41, bd, 0, 0, 0, 0, 0⟩
  | .crcChk bs => ⟨0x42, 0, bs, 0, 0, 0, 0⟩
  | .hdrTmf bs x => ⟨0x50, 0, bs, 0, x, 0, 0⟩
  | .hdrTcf bs x => ⟨0x51, 0, bs, 0, x, 0, 0⟩
  | .hdrPkt bs x => ⟨0x52, 0, bs, 0, x, 0, 0⟩
  | .hdrSeg bs x => ⟨0x53, 0, bs, 0, x, 0, 0⟩
  | .tmfSplit bs => ⟨0x54, 0, bs, 0, 0, 0, 0⟩
  | .asmPush bs => ⟨0x60, 0, bs, 0, 0, 0, 0⟩
  | .asmFlush => ⟨0x61, 0, 0, 0, 0, 0, 0⟩
  | .asmInit => ⟨0x62, 0, 0, 0, 0, 0, 0⟩
  | .pktPush bs => ⟨0x70, 0, bs, 0, 0, 0, 0⟩
  | .pktClear => ⟨0x71, 0, 0, 0, 0, 0, 0⟩

/-- The command word of a command; its payload stands beside it (30_encoding.md R90). -/
def encode (i : Instr) : CmdWord := packFields (encodeFields i)

/-- The 20 bytes of a command word on a byte-wide transport (30_encoding.md R92). -/
def encodeBytes (i : Instr) : Bytes := wordBytes (encode i)

/-- The instruction the decoder reads from a word of the opcode table. The table numbers the bits
of its one 160-bit word from 159, the most significant (30_encoding.md R91); the bits from `nbits`
up are 0. The word is laid out in bytes as R92 says and given to `decodeBytes` with an empty
payload (assumption log 14). -/
def decodeTableWord (nbits w : Nat) : Option Instr :=
  match decodeBytes (wordBytes (BitVec.ofNat 160 (w % 2 ^ nbits))) [] with
  | .ok i => some i
  | .error _ => none

end Sys2Proof
end

