-- ==== Sys2Proof/Machine/Fetch.lean ====
section
/-! DEFINITION. The command port: what a word that decodes to no command does, and where the next
command stands. Commands are fetched from no memory of the block (20_memory.md R79): the host
issues them (assumption log 1). -/

namespace Sys2Proof.Machine

/-- A refused word completes with `IllegalCommand` (30_encoding.md R95, R96; 60_exceptions.md R275);
a payload that no host interface can carry is refused (93_implementation_defined.md U14). -/
def rejectWord (s : State) : WordReject → Outcome
  | .reservedNonzero rsv => .next (takeFault s .reservedNonzero (rsv.setWidth 64))
  | .undefinedOpcode op => .next (takeFault s .undefinedOpcode (op.setWidth 64))
  | .payloadTooLong n => .refused (.payloadTooLong n)

/-- The reset input (70_reset_and_hazards.md R300, R301): every piece of state at its reset value, no
response. -/
def assertReset (s : State) : State := resetState s

/-- `s` with the command word `w` and the payload `p` as what the host issues next. -/
def State.issue (s : State) (w : CmdWord) (p : Bytes) : State :=
  { s with inputs := .command w p :: s.inputs }

end Sys2Proof.Machine
end

