-- ==== Sys2Proof/Machine/Step.lean ====
section
/-! DEFINITION. One step of SPL-CORE: take what the host issued next and do it whole (10_state.md R20,
20_memory.md R70). -/

namespace Sys2Proof.Machine

/-- Run a command word and its payload. -/
def runCommand (w : CmdWord) (p : Bytes) (s : State) : Outcome :=
  match decode w p with
  | .ok i => exec i s
  | .error e => rejectWord s e

/-- One step. With nothing issued nothing happens: "Nothing happens between commands"
(60_exceptions.md R280; assumption log 8). Parameters outside R10 and R11 are refused (93 U12). -/
def step (s : State) : Host.Outcome State Fault Refusal :=
  if configValid s.cfg then
    match s.inputs with
    | [] => .next s
    | .resetInput :: rest => .next (assertReset { s with inputs := rest })
    | .command w p :: rest => runCommand w p { s with inputs := rest }
  else .refused .notAnSplCore

/-- `s` with the command word `w` (the bits from `nbits` up zero, no payload) issued next
(assumption log 1, 14). -/
def State.withFetchWord (s : State) (nbits w : Nat) : State :=
  s.issue (BitVec.ofNat 160 (w % 2 ^ nbits)) []

end Sys2Proof.Machine
end

