-- ==== Sys2Proof/Safety.lean ====
section
/-! DEFINITION. The terms that statements about SPL-CORE use: the invariants between commands
(10_state.md R44), what a command answers, and what it leaves alone. -/

namespace Sys2Proof.Machine

/-- The form of the buffer file for the parameters `c`: a buffer that exists is within `BUF_CAP`
(10_state.md R39, R44 (g)), and one that does not exist is empty. -/
abbrev Memory.wf (c : Config) (m : Vector Bytes 16) : Prop :=
  ∀ i : Fin 16, if i.val < c.nbuf then m[i].length ≤ c.bufCap else m[i] = []

/-- What holds "after reset and after every command" (10_state.md R44), with the parameters of
00_scope.md R10 and R11 and the content of `ASM_FRAME` that 10_state.md R40 gives. -/
structure State.Inv (s : State) : Prop where
  /-- The parameters are those of an SPL-CORE (00_scope.md R10, R11). -/
  params : configValid s.cfg = true
  /-- R44 (a). -/
  wr_lt : s.asmWr.toNat < dfLen s.cfg
  /-- R44 (b). -/
  fhp_lt : s.asmFhp.toNat = 0x7FF ∨ s.asmFhp.toNat < s.asmWr.toNat
  /-- R44 (c). -/
  fhp_open : s.asmWr = 0 → s.asmFhp.toNat = 0x7FF
  /-- "A byte array of exactly TM_FRAME_SIZE bytes" (10_state.md R40). -/
  frame_length : s.asmFrame.length = s.cfg.tmFrameSize
  /-- Outside bytes `DF_START` to `DF_START + ASM_WR - 1` "every other byte is 0 until the frame is
  finalised" (10_state.md R40). -/
  frame_zero : ∀ k, k < 6 ∨ 6 + s.asmWr.toNat ≤ k → s.asmFrame.getD k 0 = 0
  /-- R44 (d). -/
  carry_le : s.pktCarry.length ≤ 65542
  /-- R44 (e). -/
  valid_iff : s.pktTargetValid = true ↔ 7 ≤ s.pktCarry.length
  /-- R44 (f). -/
  target_eq : s.pktTargetValid = true →
    s.pktTarget.toNat = be (slice s.pktCarry 4 2) + 7 ∧ s.pktCarry.length < s.pktTarget.toNat
  /-- "When PKT_TARGET_VALID = 0 bits 16 to 0 read 0" (10_state.md R35). -/
  target_zero : s.pktTargetValid = false → s.pktTarget = 0
  /-- R44 (g). -/
  buffers : Memory.wf s.cfg s.bufs

/-- The response of a command that completed with `OK`, with `value` = `RES[0]`, the given payload and
events (30_encoding.md R98). -/
def Answers (t : State) (payload : Bytes) (events : List Event) : Prop :=
  t.response = some
    { status := .ok, reason := .none, value := t.res[0], payload := payload, events := events }

/-- The command completes with the given fault and nothing else happens (60_exceptions.md R276, R277):
`ERRFLAGS <- ERRFLAGS | (1 << (c - 1))` for the class code `c`, and a response with no payload and
no event. -/
def Faults (i : Instr) (s : State) (st : Status) (r : Reason) (aux : Nat) : Prop :=
  exec i s = .next
    { s with
      errflags := s.errflags ||| ((1 : BitVec 6) <<< ((statusCode st).toNat - 1))
      response := some
        { status := st, reason := r, value := BitVec.ofNat 64 aux, payload := [], events := [] } }

/-- The Assembler's registers and its frame are as before. -/
def SameAsm (s t : State) : Prop :=
  t.asmScid = s.asmScid ∧ t.asmVcid = s.asmVcid ∧ t.asmVcfc = s.asmVcfc ∧ t.asmMcfc = s.asmMcfc ∧
  t.asmWr = s.asmWr ∧ t.asmFhp = s.asmFhp ∧ t.asmFrame = s.asmFrame

/-- The Packetizer's registers and its carry are as before. -/
def SamePkt (s t : State) : Prop :=
  t.pktCarry = s.pktCarry ∧ t.pktTarget = s.pktTarget ∧ t.pktTargetValid = s.pktTargetValid ∧
  t.pktStatus = s.pktStatus ∧ t.pktCtrl = s.pktCtrl

/-- Every byte of every buffer reads as before, so every length is as before too. -/
def SameMem (s t : State) : Prop := ∀ i k, t.byteAt i k = s.byteAt i k

/-- Every byte of every buffer but `bd` reads as before. -/
def SameMemBut (bd : BufIx) (s t : State) : Prop := ∀ i k, i ≠ bd → t.byteAt i k = s.byteAt i k

/-- `RES[n]` to `RES[15]` are as before (10_state.md R22). -/
def SameResFrom (n : Nat) (s t : State) : Prop := ∀ j : Fin 16, n ≤ j.val → t.res[j] = s.res[j]

/-- `ERRFLAGS`, the parameters and what the host has issued (the model's own field, assumption log 1)
are as before. -/
def SameRest (s t : State) : Prop :=
  t.errflags = s.errflags ∧ t.cfg = s.cfg ∧ t.inputs = s.inputs

/-- Nothing but buffers, `RES` and the response may differ. -/
def SameUnits (s t : State) : Prop :=
  t.bchSr = s.bchSr ∧ SameAsm s t ∧ SamePkt s t ∧ SameRest s t

/-- The buffer operands a command uses, `bs` before `bd`, as they are checked (60_exceptions.md R279;
the columns `bd` and `bs` of 30_encoding.md R94). -/
def bufOperands : Instr → List BufIx
  | .nop => []
  | .regRd _ => []
  | .regWr _ _ => []
  | .sreset => []
  | .buNew bd _ => [bd]
  | .buLoad bd _ => [bd]
  | .buLen bs => [bs]
  | .buSetlen bd _ => [bd]
  | .buAppend bd _ => [bd]
  | .buGetbits bs _ _ => [bs]
  | .buSetbits bd _ _ _ => [bd]
  | .buGetu bs _ _ => [bs]
  | .buGets bs _ _ => [bs]
  | .buSetu bd _ _ _ => [bd]
  | .buSets bd _ _ _ => [bd]
  | .buGetbytes bs _ _ => [bs]
  | .buSetbytes bd _ _ => [bd]
  | .bchStart => []
  | .bchStep _ => []
  | .bchStop => []
  | .cltuEnc bd bs => [bs, bd]
  | .cltuDec bd bs => [bs, bd]
  | .cltuChk bs => [bs]
  | .crcCalc bs _ _ => [bs]
  | .crcSet bd => [bd]
  | .crcChk bs => [bs]
  | .hdrTmf bs _ => [bs]
  | .hdrTcf bs _ => [bs]
  | .hdrPkt bs _ => [bs]
  | .hdrSeg bs _ => [bs]
  | .tmfSplit bs => [bs]
  | .asmPush bs => [bs]
  | .asmFlush => []
  | .asmInit => []
  | .pktPush bs => [bs]
  | .pktClear => []

/-- The buffer a command may write: the `bd` it uses (30_encoding.md R94). -/
def writesBuf : Instr → Option BufIx
  | .buNew bd _ => some bd
  | .buLoad bd _ => some bd
  | .buSetlen bd _ => some bd
  | .buAppend bd _ => some bd
  | .buSetbits bd _ _ _ => some bd
  | .buSetu bd _ _ _ => some bd
  | .buSets bd _ _ _ => some bd
  | .buSetbytes bd _ _ => some bd
  | .cltuEnc bd _ => some bd
  | .cltuDec bd _ => some bd
  | .crcSet bd => some bd
  | _ => none

/-- The commands that may change the length of a buffer besides `SRESET` (20_memory.md R73). -/
def changesLength : Instr → Bool
  | .buNew _ _ => true
  | .buLoad _ _ => true
  | .buSetlen _ _ => true
  | .buAppend _ _ => true
  | .cltuEnc _ _ => true
  | .cltuDec _ _ => true
  | _ => false

/-- How many `RES` registers, from `RES[0]` on, a command writes when it completes with `OK`
(10_state.md R22). `SRESET`, which resets them all (R23), is not in that table. -/
def resWritten : Instr → Nat
  | .buLen _ => 1
  | .buGetbits _ _ _ => 1
  | .buGetu _ _ _ => 1
  | .buGets _ _ _ => 1
  | .crcCalc _ _ _ => 1
  | .bchStart => 1
  | .bchStep _ => 1
  | .bchStop => 1
  | .buNew _ _ => 1
  | .buLoad _ _ => 1
  | .buSetlen _ _ => 1
  | .buAppend _ _ => 1
  | .cltuEnc _ _ => 1
  | .cltuDec _ _ => 1
  | .cltuChk _ => 1
  | .crcSet _ => 1
  | .crcChk _ => 1
  | .hdrTmf _ _ => 12
  | .hdrTcf _ _ => 9
  | .hdrPkt _ _ => 9
  | .hdrSeg _ _ => 2
  | .tmfSplit _ => 4
  | .asmPush _ => 1
  | .asmFlush => 1
  | .pktPush _ => 2
  | .pktClear => 1
  | .nop => 0
  | .regRd _ => 0
  | .regWr _ _ => 0
  | .sreset => 0
  | .buSetbits _ _ _ _ => 0
  | .buSetu _ _ _ _ => 0
  | .buSets _ _ _ _ => 0
  | .buGetbytes _ _ _ => 0
  | .buSetbytes _ _ _ => 0
  | .asmInit => 0

/-- The commands whose response may carry events (30_encoding.md R98, 60_exceptions.md R280). -/
def mayEmit : Instr → Bool
  | .tmfSplit _ => true
  | .asmPush _ => true
  | .asmFlush => true
  | .pktPush _ => true
  | .pktClear => true
  | _ => false

/-- The operand fields of the command word, and the payload. -/
structure FieldUse where
  bd : Bool
  bs : Bool
  x : Bool
  y : Bool
  v : Bool
  payload : Bool
deriving DecidableEq, Repr

/-- The fields a command uses: the columns of 30_encoding.md R94 that hold no dash. -/
def fieldUse : Instr → FieldUse
  | .nop => ⟨false, false, false, false, false, false⟩
  | .regRd _ => ⟨false, false, true, false, false, false⟩
  | .regWr _ _ => ⟨false, false, true, false, true, false⟩
  | .sreset => ⟨false, false, false, false, false, false⟩
  | .buNew _ _ => ⟨true, false, true, false, false, false⟩
  | .buLoad _ _ => ⟨true, false, false, false, false, true⟩
  | .buLen _ => ⟨false, true, false, false, false, false⟩
  | .buSetlen _ _ => ⟨true, false, true, false, false, false⟩
  | .buAppend _ _ => ⟨true, false, false, false, false, true⟩
  | .buGetbits _ _ _ => ⟨false, true, true, true, false, false⟩
  | .buSetbits _ _ _ _ => ⟨true, false, true, true, true, false⟩
  | .buGetu _ _ _ => ⟨false, true, true, true, false, false⟩
  | .buGets _ _ _ => ⟨false, true, true, true, false, false⟩
  | .buSetu _ _ _ _ => ⟨true, false, true, true, true, false⟩
  | .buSets _ _ _ _ => ⟨true, false, true, true, true, false⟩
  | .buGetbytes _ _ _ => ⟨false, true, true, true, false, false⟩
  | .buSetbytes _ _ _ => ⟨true, false, true, false, false, true⟩
  | .bchStart => ⟨false, false, false, false, false, false⟩
  | .bchStep _ => ⟨false, false, true, false, false, false⟩
  | .bchStop => ⟨false, false, false, false, false, false⟩
  | .cltuEnc _ _ => ⟨true, true, false, false, false, false⟩
  | .cltuDec _ _ => ⟨true, true, false, false, false, false⟩
  | .cltuChk _ => ⟨false, true, false, false, false, false⟩
  | .crcCalc _ _ _ => ⟨false, true, true, true, false, false⟩
  | .crcSet _ => ⟨true, false, false, false, false, false⟩
  | .crcChk _ => ⟨false, true, false, false, false, false⟩
  | .hdrTmf _ _ => ⟨false, true, true, false, false, false⟩
  | .hdrTcf _ _ => ⟨false, true, true, false, false, false⟩
  | .hdrPkt _ _ => ⟨false, true, true, false, false, false⟩
  | .hdrSeg _ _ => ⟨false, true, true, false, false, false⟩
  | .tmfSplit _ => ⟨false, true, false, false, false, false⟩
  | .asmPush _ => ⟨false, true, false, false, false, false⟩
  | .asmFlush => ⟨false, false, false, false, false, false⟩
  | .asmInit => ⟨false, false, false, false, false, false⟩
  | .pktPush _ => ⟨false, true, false, false, false, false⟩
  | .pktClear => ⟨false, false, false, false, false, false⟩

/-- Two words select the same operation and agree on the fields that a command uses. -/
def AgreeOn (u : FieldUse) (f g : Fields) : Prop :=
  f.op = g.op ∧ f.rsv = g.rsv ∧ (u.bd = true → f.bd = g.bd) ∧ (u.bs = true → f.bs = g.bs) ∧
  (u.x = true → f.x = g.x) ∧ (u.y = true → f.y = g.y) ∧ (u.v = true → f.v = g.v)

/-- The commands that may write `BCH_SR`: `BCH.START`, `BCH.STEP`, the host by `REG.WR`, and reset
(10_state.md R27). -/
def touchesBch : Instr → Bool
  | .bchStart => true
  | .bchStep _ => true
  | .regWr _ _ => true
  | .sreset => true
  | _ => false

/-- The commands that may write the Assembler's state: the ASM family, `REG.WR` and `SRESET`
(10_state.md R28 to R33, R40). -/
def touchesAsm : Instr → Bool
  | .asmPush _ => true
  | .asmFlush => true
  | .asmInit => true
  | .regWr _ _ => true
  | .sreset => true
  | _ => false

/-- The commands that may write the Packetizer's state: the PKT family, `REG.WR` and `SRESET`
(10_state.md R34 to R37, R41). -/
def touchesPkt : Instr → Bool
  | .pktPush _ => true
  | .pktClear => true
  | .regWr _ _ => true
  | .sreset => true
  | _ => false

/-- One bit of a byte sequence, `(s[p div 8] >> (7 - p mod 8)) & 1` (00_scope.md R14), as a number. -/
def bitValue (s : Bytes) (p : Nat) : Nat := ((s.getD (p / 8) 0).toNat / 2 ^ (7 - p % 8)) % 2

/-- Bit `p` of a byte sequence inverted. -/
def flipBit (s : Bytes) (p : Nat) : Bytes := setBitAt s p (!bitAt s p)

/-- The data field of a TM frame, `f[DF_START : DF_END]` (44_frame_packet.md R207). -/
def dataField (c : Config) (f : Bytes) : Bytes := (f.take (dfEnd c)).drop dfStart

/-- The packet bytes placed so far in the open frame (10_state.md R40). -/
def placed (s : State) : Bytes := slice s.asmFrame dfStart s.asmWr.toNat

/-- The `FRAME` event of a frame (30_encoding.md R100). -/
def frameOf (f : Bytes) : Event := { kind := .frame, info := 0, data := f }

/-- The `PACKET` event of a packet, `info` 1 when its APID is 2047 (30_encoding.md R100, R116). -/
def packetOf (q : Bytes) : Event :=
  { kind := .packet
    info := if (q.getD 0 0).toNat % 8 * 256 + (q.getD 1 0).toNat = 2047 then 1 else 0
    data := q }

/-- A packet whose length field agrees with its length (45_assembler.md R224). -/
def IsPacket (q : Bytes) : Prop :=
  7 ≤ q.length ∧ q.length = (q.getD 4 0).toNat * 256 + (q.getD 5 0).toNat + 7

/-- The last two bytes of `f` are the CRC-16 of the bytes before them (30_encoding.md R108). -/
abbrev CrcAgrees (f : Bytes) : Prop :=
  (crc16 (f.take (f.length - 2))).toNat =
    (f.getD (f.length - 2) 0).toNat * 256 + (f.getD (f.length - 1) 0).toNat

/-- `firstHeaderPointer` of a frame, from bytes 4 and 5 (30_encoding.md R111). -/
def pointerOf (f : Bytes) : Nat := ((f.getD 4 0).toNat * 256 + (f.getD 5 0).toNat) % 2048

/-- A frame that passes `frame_check` (44_frame_packet.md R206): its size, its CRC where the instance
has one, and a pointer that is a sentinel or inside the data field. -/
def FrameGood (c : Config) (f : Bytes) : Prop :=
  f.length = c.tmFrameSize ∧ (c.tmHasCrc = true → CrcAgrees f) ∧
  (pointerOf f = 0x7FF ∨ pointerOf f = 0x7FE ∨ pointerOf f < dfLen c)

/-- A CLTU of `k` code blocks that passes `cltu_validate` (42_cltu.md R178): length, both markers, and
the whole 8th byte of every block. -/
def CltuGood (c : Bytes) (k : Nat) : Prop :=
  c.length = 10 + 8 * k ∧ c.take 2 = [0xEB, 0x90] ∧ c.drop (2 + 8 * k) = List.replicate 8 0x55 ∧
  ∀ i < k, bchCheck (slice c (2 + 8 * i) 7) = c.getD (9 + 8 * i) 0

/-- The size that the first six bytes of a packet declare, `packetLength + 7` (30_encoding.md R117). -/
def sizeDeclared (q : Bytes) : Nat := (q.getD 4 0).toNat * 256 + (q.getD 5 0).toNat + 7

/-- A packet as the Packetizer delivers it, `drop` standing for `DROP_IDLE` (46_packetizer.md R237): no
event for an idle packet that the host wants dropped. -/
def delivered (drop : Bool) (q : Bytes) : List Event :=
  if drop = true ∧ (packetOf q).info = 1 then [] else [packetOf q]

/-- The `DISCARD` event with the given reason code (30_encoding.md R100). -/
def discardOf (reason : BitVec 8) (b : Bytes) : Event := { kind := .discard, info := reason, data := b }

/-- An idle packet of `n` bytes (45_assembler.md R225). -/
def idleOf (c : Config) (n : Nat) : Bytes :=
  [0x07, 0xFF, 0xC0, 0x00, BitVec.ofNat 8 ((n - 7) / 256), BitVec.ofNat 8 ((n - 7) % 256)] ++
    List.replicate (n - 6) c.idleFillByte

/-- The state after a command that completed with `OK`, none after any other outcome. -/
def okNext : Outcome → Option State
  | .next t =>
    match t.response with
    | some r => if r.status = .ok then some t else none
    | none => none
  | _ => none

/-- The events of the response a state holds. -/
def eventsOf (t : State) : List Event :=
  match t.response with
  | some r => r.events
  | none => []

/-- Load each byte sequence into `B[0]` and give the command `i`, in order: the last state and the
events of the `i` commands, none as soon as a command does not complete with `OK`. -/
def feed (i : Instr) (s : State) : List Bytes → Option (State × List Event)
  | [] => some (s, [])
  | p :: ps =>
    match okNext (exec (.buLoad 0 p) s) with
    | none => none
    | some t =>
      match okNext (exec i t) with
      | none => none
      | some u =>
        match feed i u ps with
        | none => none
        | some r => some (r.1, eventsOf u ++ r.2)

/-- Run commands in order: the last state, none as soon as one does not complete with `OK`. -/
def runs : List Instr → State → Option State
  | [], s => some s
  | i :: is, s =>
    match okNext (exec i s) with
    | none => none
    | some t => runs is t

/-- The command faults with `BAD_BUFFER_INDEX` when the buffer it uses does not exist (20_memory.md
R71). -/
def NeedsBuf (i : Instr) (s : State) (b : BufIx) : Prop :=
  s.cfg.nbuf ≤ b.toNat → Faults i s .illegalCommand .badBufferIndex b.toNat

/-- The addresses of the read-only registers (10_state.md R26). -/
def readOnlyAddrs : List Nat := List.range 16 ++ [0x24, 0x25, 0x30, 0x31]

/-- The addresses of the registers that `REG.WR` may write (10_state.md R26). -/
def writableAddrs : List Nat := [0x10, 0x11, 0x20, 0x21, 0x22, 0x23, 0x32, 0x33]

/-- What the register at an address reads, as a number; none for an unimplemented address
(10_state.md R26, 47_system.md R256). -/
def registerValue (s : State) (a : Nat) : Option Nat :=
  if h : a < 16 then some s.res[a].toNat
  else if a = 0x10 then some s.errflags.toNat
  else if a = 0x11 then some s.bchSr.toNat
  else if a = 0x20 then some s.asmScid.toNat
  else if a = 0x21 then some s.asmVcid.toNat
  else if a = 0x22 then some s.asmVcfc.toNat
  else if a = 0x23 then some s.asmMcfc.toNat
  else if a = 0x24 then some s.asmWr.toNat
  else if a = 0x25 then some s.asmFhp.toNat
  else if a = 0x30 then some s.pktCarry.length
  else if a = 0x31 then some ((if s.pktTargetValid then 2 ^ 31 else 0) + s.pktTarget.toNat)
  else if a = 0x32 then some s.pktStatus.toNat
  else if a = 0x33 then some s.pktCtrl.toNat
  else none

/-- The defined operation codes (30_encoding.md R94, R95). -/
def definedOpcode (op : Nat) : Bool :=
  decide (op ≤ 0x03 ∨ (0x10 ≤ op ∧ op ≤ 0x1C) ∨ (0x20 ≤ op ∧ op ≤ 0x22) ∨ (0x30 ≤ op ∧ op ≤ 0x32) ∨
    (0x40 ≤ op ∧ op ≤ 0x42) ∨ (0x50 ≤ op ∧ op ≤ 0x54) ∨ (0x60 ≤ op ∧ op ≤ 0x62) ∨
    (0x70 ≤ op ∧ op ≤ 0x71))

/-- The pointer the open frame carries once a packet starts in it: the one it has, else the offset the
packet starts at (45_assembler.md R223). -/
def startPointer (s : State) : Nat := if s.asmFhp = 0x7FF then s.asmWr.toNat else s.asmFhp.toNat

/-- Step 1 of `PKT.PUSH` (46_packetizer.md R239): what becomes of the carry when the leading fragment
`lead` comes in; `starts` when a packet starts in the frame (class 0), `drop` for `DROP_IDLE`. The
carry left, the events, and the bits set in `PKT_STATUS` besides `ORPHAN`. -/
def afterLead (drop starts : Bool) (carry lead : Bytes) : Bytes × List Event × BitVec 3 :=
  if lead = [] then
    if starts = true ∧ carry ≠ [] then ([], [discardOf 1 carry], 0b010) else (carry, [], 0)
  else if 7 ≤ (carry ++ lead).length ∧ (carry ++ lead).length = sizeDeclared (carry ++ lead) then
    ([], delivered drop (carry ++ lead), 0)
  else if 7 ≤ (carry ++ lead).length ∧ sizeDeclared (carry ++ lead) < (carry ++ lead).length then
    ([], [discardOf 2 (carry ++ lead)], 0b100)
  else if starts = true then ([], [discardOf 1 (carry ++ lead)], 0b010)
  else (carry ++ lead, [], 0)

/-- The Packetizer's registers after a command that leaves `carry` in flight (10_state.md R44 (e),
(f); 46_packetizer.md R236). -/
def Carries (t : State) (carry : Bytes) : Prop :=
  t.pktCarry = carry ∧ t.pktTargetValid = decide (7 ≤ carry.length) ∧
  t.pktTarget.toNat = if 7 ≤ carry.length then sizeDeclared carry else 0

end Sys2Proof.Machine
end

