-- ==== Sys2Proof/Certificates/Slice0/Obligations.lean ====
section
/-! DEFINITION. The statements for the provers, in the order of OBLIGATIONS.json. -/

open Sys2Proof Sys2Proof.Machine

/-! ### the whole machine -/

/-- 10_state.md R45: the value of every piece of state after reset, whatever the parameters `c`. -/
def Obligations.ResetValues : Prop :=
  ∀ c : Config,
    let s := State.resetFor c
    s.cfg = c ∧ (∀ i : Fin 16, s.res[i] = 0) ∧ s.errflags = 0 ∧ s.bchSr = 0 ∧
    (∀ i : BufIx, s.buf i = []) ∧ (∀ i k, s.byteAt i k = none) ∧
    s.asmScid = 0 ∧ s.asmVcid = 0 ∧ s.asmVcfc = 0 ∧ s.asmMcfc = 0 ∧ s.asmWr = 0 ∧
    s.asmFhp = 0x7FF ∧ s.asmFrame.length = c.tmFrameSize ∧ (∀ b ∈ s.asmFrame, b = 0) ∧
    s.pktCarry = [] ∧ s.pktTarget = 0 ∧ s.pktTargetValid = false ∧ s.pktStatus = 0 ∧
    s.pktCtrl = 0

/-- 10_state.md R44, after reset: the reset state of every SPL-CORE meets the invariant; and so does
`State.reset`, the reset state of the one instance the model chooses (assumption log 3). -/
def Obligations.ResetMeetsInvariant : Prop :=
  (∀ c, configValid c = true → (State.resetFor c).Inv) ∧
  State.reset = State.resetFor Config.vectors ∧ State.reset.Inv

/-- 10_state.md R44, after every command: every step keeps the invariant. -/
def Obligations.StepKeepsInvariant : Prop :=
  ∀ s t : State, s.Inv → step s = .next t → t.Inv

/-- 30_encoding.md R91, R92, R94: the decoder reads every well-formed command back from its word and
from its 20 bytes. -/
def Obligations.DecodeEncodeAgree : Prop :=
  ∀ i : Instr, i.wellFormed = true →
    decode (encode i) i.payload = .ok i ∧ (encodeBytes i).length = 20 ∧
    decodeBytes (encodeBytes i) i.payload = .ok i

/-- 30_encoding.md R92: the 20 bytes of a command word, from its fields; read back they are the same
word, and no other number of bytes is a command. -/
def Obligations.WordLayout : Prop :=
  (∀ f : Fields,
    wordBytes (packFields f) =
      [f.op, BitVec.ofNat 8 (f.bd.toNat * 16 + f.bs.toNat)] ++ toBe f.rsv.toNat 2 ++
        toBe f.x.toNat 4 ++ toBe f.y.toNat 4 ++ toBe f.v.toNat 8 ∧
    fieldsOf (packFields f) = f) ∧
  (∀ w : CmdWord, be (wordBytes w) = w.toNat ∧ packFields (fieldsOf w) = w) ∧
  (∀ b p, b.length ≠ 20 → decodeBytes b p = .error (.notTwentyBytes b.length))

/-- A few words written out from 30_encoding.md R91 and R94 decode to the commands they stand for.
-/
def Obligations.SpecWordsDecode : Prop :=
  decode 0x0000000000000000000000000000000000000000 [] = .ok .nop ∧
  decode 0x0200000000000020000000000000000000000123 [] = .ok (.regWr 0x20 0x123) ∧
  decode 0x15000000000000250000000b0000000000000000 [] = .ok (.buGetbits 0 0x25 0xb) ∧
  decode 0x1920000000000004000000020000000000000000 [] = .ok (.buSetu 2 4 2 0) ∧
  decode 0x2100000000000041000000000000000000000000 [] = .ok (.bchStep 0x41) ∧
  decode 0x3010000000000000000000000000000000000000 [] = .ok (.cltuEnc 1 0) ∧
  decode 0x4003000000000001000000090000000000000000 [] = .ok (.crcCalc 3 1 9) ∧
  decode 0x5202000000000007000000000000000000000000 [] = .ok (.hdrPkt 2 7) ∧
  decode 0x6001000000000000000000000000000000000000 [] = .ok (.asmPush 1) ∧
  decode 0x7100000000000000000000000000000000000000 [] = .ok .pktClear

/-- A step takes the command issued first and runs the instruction its word decodes to; the command
leaves the list of what is still to be done (that list is the model's, assumption log 1). -/
def Obligations.StepRunsDecoded : Prop :=
  ∀ (s : State) (w : CmdWord) (p : Bytes) (rest : List HostInput) (i : Instr),
    configValid s.cfg = true → s.inputs = .command w p :: rest → decode w p = .ok i →
      step s = exec i { s with inputs := rest }

/-- 30_encoding.md R95: an undefined operation code. -/
def Obligations.UndefinedOpcodesFault : Prop :=
  ∀ (s : State) (w : CmdWord) (p : Bytes) (rest : List HostInput),
    configValid s.cfg = true → s.inputs = .command w p :: rest → p.length < 2 ^ 32 →
    w.toNat / 2 ^ 128 % 2 ^ 16 = 0 → definedOpcode (w.toNat / 2 ^ 152) = false →
      step s = .next { s with
        inputs := rest
        errflags := s.errflags ||| 0b010000
        response := some
          { status := .illegalCommand, reason := .undefinedOpcode,
            value := BitVec.ofNat 64 (w.toNat / 2 ^ 152), payload := [], events := [] } }

/-- 30_encoding.md R96: a reserved field that is not 0 faults whatever else the word holds; and two
words of the same operation that agree on the fields the operation uses do the same, whatever the
unused fields and an unused payload hold. -/
def Obligations.ReservedAndUnusedFields : Prop :=
  (∀ (s : State) (w : CmdWord) (p : Bytes) (rest : List HostInput),
    configValid s.cfg = true → s.inputs = .command w p :: rest → p.length < 2 ^ 32 →
    w.toNat / 2 ^ 128 % 2 ^ 16 ≠ 0 →
      step s = .next { s with
        inputs := rest
        errflags := s.errflags ||| 0b010000
        response := some
          { status := .illegalCommand, reason := .reservedNonzero,
            value := BitVec.ofNat 64 (w.toNat / 2 ^ 128 % 2 ^ 16), payload := [], events := [] } }) ∧
  (∀ (s : State) (w w' : CmdWord) (p p' : Bytes) (i : Instr),
    decode w p = .ok i → AgreeOn (fieldUse i) (fieldsOf w) (fieldsOf w') → p'.length < 2 ^ 32 →
    ((fieldUse i).payload = true → p' = p) →
      decode w' p' = .ok i ∧ runCommand w' p' s = runCommand w p s)

/-- 60_exceptions.md R276: a command that completes with a fault changes `ERRFLAGS` and gives a
response, and nothing else. -/
def Obligations.FaultChangesOnlyErrflags : Prop :=
  ∀ (s t : State) (w : CmdWord) (p : Bytes) (r : Response),
    runCommand w p s = .next t → t.response = some r → r.status ≠ .ok →
      t = { s with
        errflags := s.errflags ||| ((1 : BitVec 6) <<< ((statusCode r.status).toNat - 1))
        response := some r } ∧
      r.payload = [] ∧ r.events = [] ∧ r.status = statusOf r.reason

/-- 60_exceptions.md R277: how `ERRFLAGS` changes. -/
def Obligations.ErrflagsUpdate : Prop :=
  ∀ (s t : State) (w : CmdWord) (p : Bytes) (r : Response),
    runCommand w p s = .next t → t.response = some r →
      (r.status ≠ .ok →
        1 ≤ (statusCode r.status).toNat ∧ (statusCode r.status).toNat ≤ 6 ∧
        t.errflags = s.errflags ||| ((1 : BitVec 6) <<< ((statusCode r.status).toNat - 1))) ∧
      (r.status = .ok →
        ∃ i, decode w p = .ok i ∧
          (i ≠ .sreset → (∀ v, i ≠ .regWr 0x10 v) → t.errflags = s.errflags))

/-- 60_exceptions.md R282, 70_reset_and_hazards.md R320: every state accepts every command and
answers it. That what is issued later stays issued, over `SRESET` too, is the model's choice
(assumption log 1 and 9). -/
def Obligations.EveryCommandAnswered : Prop :=
  ∀ (s : State) (w : CmdWord) (p : Bytes) (rest : List HostInput),
    configValid s.cfg = true → s.inputs = .command w p :: rest → p.length < 2 ^ 32 →
      ∃ t r, step s = .next t ∧ t.response = some r ∧ t.inputs = rest ∧ t.cfg = s.cfg

/-- 20_memory.md R71, 60_exceptions.md R279: the first used buffer operand that does not exist, `bs`
before `bd`, decides; with none such, no command reports it. -/
def Obligations.BadBufferIndexFaults : Prop :=
  (∀ (i : Instr) (s : State) (b : BufIx),
    (bufOperands i).find? (fun b => decide (s.cfg.nbuf ≤ b.toNat)) = some b →
      Faults i s .illegalCommand .badBufferIndex b.toNat) ∧
  (∀ (i : Instr) (s t : State) (r : Response),
    (∀ b ∈ bufOperands i, b.toNat < s.cfg.nbuf) → exec i s = .next t → t.response = some r →
      r.reason ≠ .badBufferIndex)

/-- 10_state.md R22: the result registers a command leaves as they are; `SRESET`, which R22's table
lists with none, sets them all to 0 (R23). -/
def Obligations.ResWrittenByTable : Prop :=
  ∀ (i : Instr) (s t : State) (r : Response),
    exec i s = .next t → t.response = some r →
      (r.status ≠ .ok → SameResFrom 0 s t) ∧
      (r.status = .ok → i ≠ .sreset → SameResFrom (resWritten i) s t) ∧
      (i = .sreset → ∀ j : Fin 16, t.res[j] = 0)

/-- 10_state.md R21: no command reads a result register as an operand. From two states that differ
in `RES` alone, a command leaves the same in everything but `RES` and the response; what it writes
into `RES` is the same, and so is the response but for `value`. -/
def Obligations.ResNeverRead : Prop :=
  ∀ (i : Instr) (s t : State) (q : Vector Value 16) (r : Response),
    exec i s = .next t → t.response = some r →
      ∃ t' r', exec i { s with res := q } = .next t' ∧ t'.response = some r' ∧
        { t' with res := t.res, response := t.response } = t ∧
        r'.status = r.status ∧ r'.reason = r.reason ∧ r'.payload = r.payload ∧ r'.events = r.events ∧
        (r.status = .ok → ∀ j : Fin 16, j.val < resWritten i → t'.res[j] = t.res[j]) ∧
        (r.status ≠ .ok → r'.value = r.value)

/-- 20_memory.md R73: a command writes no buffer but the `bd` it uses, and the length of a buffer
changes only by the six commands named there and by `SRESET`, which empties every buffer. -/
def Obligations.BuffersWrittenThroughBd : Prop :=
  ∀ (i : Instr) (s t : State),
    exec i s = .next t →
      (i ≠ .sreset →
        (∀ b k, writesBuf i ≠ some b → t.byteAt b k = s.byteAt b k) ∧
        (changesLength i = false → ∀ b, (t.buf b).length = (s.buf b).length)) ∧
      (i = .sreset → ∀ b, t.buf b = [])

/-- 10_state.md R27 to R42, R43: the BCH register, the Assembler and the Packetizer change only by
their own commands, by `REG.WR` and by `SRESET`; no command changes the parameters. That no command,
`SRESET` included, changes what the host has issued is the model's choice and no rule of the spec
(assumption log 1 and 9). -/
def Obligations.UnitsKeepToThemselves : Prop :=
  ∀ (i : Instr) (s t : State),
    exec i s = .next t →
      (touchesBch i = false → t.bchSr = s.bchSr) ∧
      (touchesAsm i = false → SameAsm s t) ∧
      (touchesPkt i = false → SamePkt s t) ∧
      t.cfg = s.cfg ∧ t.inputs = s.inputs

/-- 30_encoding.md R98, R99, 60_exceptions.md R281: the form of a response. -/
def Obligations.ResponseForm : Prop :=
  ∀ (i : Instr) (s t : State),
    exec i s = .next t →
      ∃ r, t.response = some r ∧ (statusCode r.status).toNat ≤ 6 ∧
        (r.status = .ok ↔ r.reason = .none) ∧ (r.status = .ok ↔ reasonCode r.reason = 0) ∧
        r.status = statusOf r.reason ∧
        (r.status = .ok → (∀ x, i ≠ .regRd x) → r.value = t.res[0]) ∧
        (r.payload ≠ [] → r.status = .ok ∧ ∃ bs x y, i = .buGetbytes bs x y) ∧
        (r.events ≠ [] → r.status = .ok ∧ mayEmit i = true)

/-- 30_encoding.md R98, R100: the canonical byte form of a response tells the response, as long as
its lengths and its number of events fit their fields. -/
def Obligations.ResponseBytesInjective : Prop :=
  ∀ r r' : Response,
    (∀ q ∈ [r, r'], q.payload.length < 2 ^ 32 ∧ q.events.length < 2 ^ 16 ∧
      ∀ e ∈ q.events, e.data.length < 2 ^ 32) →
    responseBytes r = responseBytes r' → r = r'

/-- The steps that run no command. With nothing issued nothing happens (60_exceptions.md R280); the
reset input puts every piece of state to its reset value with no response (70_reset_and_hazards.md
R300, R301; that what is issued later stays issued is the model's choice, assumption log 9); a
payload of 2^32 bytes or more and parameters that are no SPL-CORE's are refused
(93_implementation_defined.md U14, U12). -/
def Obligations.StepsWithoutCommand : Prop :=
  (∀ s : State, configValid s.cfg = true → s.inputs = [] → step s = .next s) ∧
  (∀ (s : State) (rest : List HostInput),
    configValid s.cfg = true → s.inputs = .resetInput :: rest →
      step s = .next { State.resetFor s.cfg with inputs := rest, response := none }) ∧
  (∀ (s : State) (w : CmdWord) (p : Bytes) (rest : List HostInput),
    configValid s.cfg = true → s.inputs = .command w p :: rest → 2 ^ 32 ≤ p.length →
      step s = .refused (.payloadTooLong p.length)) ∧
  (∀ s : State, configValid s.cfg = false → step s = .refused .notAnSplCore)

/-! ### SYS -/

/-- 47_system.md R255: `NOP`. -/
def Obligations.NopDoesNothing : Prop :=
  (∀ s : State, ∃ t, exec .nop s = .next t ∧
    SameMem s t ∧ SameResFrom 0 s t ∧ SameUnits s t ∧ Answers t [] []) ∧
  (∀ p : Bytes, p.length < 2 ^ 32 → decode 0 p = .ok .nop)

/-- 47_system.md R256, 10_state.md R26: `REG.RD`. The premise is the invariant's bound on the carry.
-/
def Obligations.RegRdReads : Prop :=
  ∀ (s : State) (x : Scalar), s.pktCarry.length ≤ 65542 →
    (∀ n, registerValue s x.toNat = some n →
      ∃ t, exec (.regRd x) s = .next t ∧
        SameMem s t ∧ SameResFrom 0 s t ∧ SameUnits s t ∧
        t.response = some
          { status := .ok, reason := .none, value := BitVec.ofNat 64 n, payload := [], events := [] } ∧
        n < 2 ^ 64) ∧
    (registerValue s x.toNat = none → Faults (.regRd x) s .illegalCommand .badRegAddr x.toNat) ∧
    (0xFFFF < x.toNat → registerValue s x.toNat = none)

/-- 47_system.md R257, 10_state.md R26: `REG.WR`. -/
def Obligations.RegWrWrites : Prop :=
  ∀ (s : State) (x : Scalar) (v : Value),
    (x.toNat ∈ writableAddrs →
      ∃ t, exec (.regWr x v) s = .next t ∧
        (∀ k < 6, t.errflags.getLsbD k =
          (s.errflags.getLsbD k && !(decide (x.toNat = 0x10) && v.getLsbD k))) ∧
        (∀ k < 3, t.pktStatus.getLsbD k =
          (s.pktStatus.getLsbD k && !(decide (x.toNat = 0x32) && v.getLsbD k))) ∧
        t.bchSr.toNat = (if x.toNat = 0x11 then v.toNat % 2 ^ 7 else s.bchSr.toNat) ∧
        t.asmScid.toNat = (if x.toNat = 0x20 then v.toNat % 2 ^ 10 else s.asmScid.toNat) ∧
        t.asmVcid.toNat = (if x.toNat = 0x21 then v.toNat % 2 ^ 3 else s.asmVcid.toNat) ∧
        t.asmVcfc.toNat = (if x.toNat = 0x22 then v.toNat % 2 ^ 8 else s.asmVcfc.toNat) ∧
        t.asmMcfc.toNat = (if x.toNat = 0x23 then v.toNat % 2 ^ 8 else s.asmMcfc.toNat) ∧
        t.pktCtrl.toNat = (if x.toNat = 0x33 then v.toNat % 2 else s.pktCtrl.toNat) ∧
        t.asmWr = s.asmWr ∧ t.asmFhp = s.asmFhp ∧ t.asmFrame = s.asmFrame ∧
        t.pktCarry = s.pktCarry ∧ t.pktTarget = s.pktTarget ∧ t.pktTargetValid = s.pktTargetValid ∧
        t.cfg = s.cfg ∧ t.inputs = s.inputs ∧
        SameMem s t ∧ SameResFrom 0 s t ∧ Answers t [] []) ∧
    (x.toNat ∈ readOnlyAddrs → Faults (.regWr x v) s .illegalCommand .readOnlyReg x.toNat) ∧
    (x.toNat ∉ writableAddrs → x.toNat ∉ readOnlyAddrs →
      Faults (.regWr x v) s .illegalCommand .badRegAddr x.toNat) ∧
    (x.toNat ∈ writableAddrs ++ readOnlyAddrs ↔ registerValue s x.toNat ≠ none)

/-- 47_system.md R258: `SRESET` puts every piece of state to its reset value, as the reset input
does, and answers `OK` with value 0 and no event. That what the host has issued stays issued over
`SRESET` (`inputs := s.inputs`) is the model's choice and no rule of the spec (assumption log 9). -/
def Obligations.SresetResets : Prop :=
  ∀ s : State, ∃ t, exec .sreset s = .next t ∧
    t = { State.resetFor s.cfg with
      inputs := s.inputs
      response := some { status := .ok, reason := .none, value := 0, payload := [], events := [] } } ∧
    { t with response := none } = assertReset s

/-! ### BU -/

/-- 40_binaryunit.md R131, R132: `BU.NEW` and `BU.LOAD`. -/
def Obligations.NewAndLoadReplace : Prop :=
  ∀ (s : State) (bd : BufIx),
    (∀ x, NeedsBuf (.buNew bd x) s bd) ∧ (∀ p, NeedsBuf (.buLoad bd p) s bd) ∧
    (bd.toNat < s.cfg.nbuf →
      (∀ x : Scalar, x.toNat ≤ s.cfg.bufCap →
        ∃ t, exec (.buNew bd x) s = .next t ∧
          (t.buf bd).length = x.toNat ∧ (∀ b ∈ t.buf bd, b = 0x00) ∧
          t.res[0].toNat = x.toNat ∧
          SameMemBut bd s t ∧ SameResFrom 1 s t ∧ SameUnits s t ∧ Answers t [] []) ∧
      (∀ x : Scalar, s.cfg.bufCap < x.toNat →
        Faults (.buNew bd x) s .capacity .bufferCapacity x.toNat) ∧
      (∀ p : Bytes, p.length ≤ s.cfg.bufCap →
        ∃ t, exec (.buLoad bd p) s = .next t ∧
          t.buf bd = p ∧ t.res[0] = BitVec.ofNat 64 p.length ∧
          SameMemBut bd s t ∧ SameResFrom 1 s t ∧ SameUnits s t ∧ Answers t [] []) ∧
      (∀ p : Bytes, s.cfg.bufCap < p.length →
        Faults (.buLoad bd p) s .capacity .bufferCapacity p.length))

/-- 40_binaryunit.md R133, R134, R135: `BU.LEN`, `BU.SETLEN` and `BU.APPEND`. -/
def Obligations.LengthCommands : Prop :=
  ∀ (s : State) (b : BufIx),
    NeedsBuf (.buLen b) s b ∧ (∀ x, NeedsBuf (.buSetlen b x) s b) ∧
    (∀ p, NeedsBuf (.buAppend b p) s b) ∧
    (b.toNat < s.cfg.nbuf →
      (∃ t, exec (.buLen b) s = .next t ∧
        t.res[0] = BitVec.ofNat 64 (s.buf b).length ∧
        SameMem s t ∧ SameResFrom 1 s t ∧ SameUnits s t ∧ Answers t [] []) ∧
      (∀ x : Scalar, x.toNat ≤ s.cfg.bufCap →
        ∃ t, exec (.buSetlen b x) s = .next t ∧
          (t.buf b).length = x.toNat ∧
          (∀ k < x.toNat, (t.buf b).getD k 0x00 = (s.buf b).getD k 0x00) ∧
          t.res[0].toNat = x.toNat ∧
          SameMemBut b s t ∧ SameResFrom 1 s t ∧ SameUnits s t ∧ Answers t [] []) ∧
      (∀ x : Scalar, s.cfg.bufCap < x.toNat →
        Faults (.buSetlen b x) s .capacity .bufferCapacity x.toNat) ∧
      (∀ p : Bytes, (s.buf b).length + p.length ≤ s.cfg.bufCap →
        ∃ t, exec (.buAppend b p) s = .next t ∧
          t.buf b = s.buf b ++ p ∧
          t.res[0] = BitVec.ofNat 64 ((s.buf b).length + p.length) ∧
          SameMemBut b s t ∧ SameResFrom 1 s t ∧ SameUnits s t ∧ Answers t [] []) ∧
      (∀ p : Bytes, s.cfg.bufCap < (s.buf b).length + p.length →
        Faults (.buAppend b p) s .capacity .bufferCapacity ((s.buf b).length + p.length)))

/-- 40_binaryunit.md R136: `BU.GETBITS`. -/
def Obligations.GetbitsReads : Prop :=
  ∀ (s : State) (bs : BufIx) (x y : Scalar),
    let p := x.toNat
    let w := y.toNat
    NeedsBuf (.buGetbits bs x y) s bs ∧
    (bs.toNat < s.cfg.nbuf →
      (w = 0 ∨ 64 < w ∨ bitsSupported s.cfg (p % 8) w = false →
        Faults (.buGetbits bs x y) s .invalidWidth .badBitWidth w) ∧
      (1 ≤ w → w ≤ 64 → bitsSupported s.cfg (p % 8) w = true →
        ((s.buf bs).length ≤ (p + w - 1) / 8 →
          Faults (.buGetbits bs x y) s .outOfRange .fieldOutOfRange 0) ∧
        ((p + w - 1) / 8 < (s.buf bs).length →
          ∃ t, exec (.buGetbits bs x y) s = .next t ∧
            t.res[0].toNat =
              ∑ j ∈ Finset.range w, bitValue (s.buf bs) (p + j) * 2 ^ (w - 1 - j) ∧
            SameMem s t ∧ SameResFrom 1 s t ∧ SameUnits s t ∧ Answers t [] [])))

/-- 40_binaryunit.md R137: `BU.SETBITS`. -/
def Obligations.SetbitsWrites : Prop :=
  ∀ (s : State) (bd : BufIx) (x y : Scalar) (v : Value),
    let p := x.toNat
    let w := y.toNat
    NeedsBuf (.buSetbits bd x y v) s bd ∧
    (bd.toNat < s.cfg.nbuf →
      (w = 0 ∨ 64 < w ∨ bitsSupported s.cfg (p % 8) w = false →
        Faults (.buSetbits bd x y v) s .invalidWidth .badBitWidth w) ∧
      (1 ≤ w → w ≤ 64 → bitsSupported s.cfg (p % 8) w = true →
        ((s.buf bd).length ≤ (p + w - 1) / 8 →
          Faults (.buSetbits bd x y v) s .outOfRange .fieldOutOfRange 0) ∧
        ((p + w - 1) / 8 < (s.buf bd).length →
          ∃ t, exec (.buSetbits bd x y v) s = .next t ∧
            (t.buf bd).length = (s.buf bd).length ∧
            (∀ j < w, bitValue (t.buf bd) (p + j) = v.toNat / 2 ^ (w - 1 - j) % 2) ∧
            (∀ q, q < p ∨ p + w ≤ q → bitValue (t.buf bd) q = bitValue (s.buf bd) q) ∧
            (∀ k, k < p / 8 ∨ (p + w - 1) / 8 < k → t.byteAt bd k = s.byteAt bd k) ∧
            SameMemBut bd s t ∧ SameResFrom 0 s t ∧ SameUnits s t ∧ Answers t [] [])))

/-- 40_binaryunit.md R138, which the spec marks as derived from its R136, R137 and R141: a bit field
written reads back, one that does not overlap it reads as before, and a byte-aligned bit field is
the integer at that byte. -/
def Obligations.BitAccessorLaw : Prop :=
  (∀ (s t : State) (b : BufIx) (x y : Scalar) (v : Value),
    okNext (exec (.buSetbits b x y v) s) = some t →
      (∃ u, okNext (exec (.buGetbits b x y) t) = some u ∧
        u.res[0].toNat = v.toNat % 2 ^ y.toNat) ∧
      (∀ (x' y' : Scalar) (u : State),
        x'.toNat + y'.toNat ≤ x.toNat ∨ x.toNat + y.toNat ≤ x'.toNat →
        okNext (exec (.buGetbits b x' y') s) = some u →
          ∃ u', okNext (exec (.buGetbits b x' y') t) = some u' ∧ u'.res[0] = u.res[0])) ∧
  (∀ (s u u' : State) (b : BufIx) (p w x n : Scalar),
    p.toNat = 8 * x.toNat → w.toNat = 8 * n.toNat →
    okNext (exec (.buGetbits b p w) s) = some u → okNext (exec (.buGetu b x n) s) = some u' →
      u.res[0] = u'.res[0])

/-- 40_binaryunit.md R139 to R142: `BU.GETU` and `BU.GETS`. -/
def Obligations.IntegerReads : Prop :=
  ∀ (s : State) (bs : BufIx) (x y : Scalar),
    let n := y.toNat
    let u := ∑ j ∈ Finset.range n, ((s.buf bs).getD (x.toNat + j) 0).toNat * 256 ^ (n - 1 - j)
    NeedsBuf (.buGetu bs x y) s bs ∧ NeedsBuf (.buGets bs x y) s bs ∧
    (bs.toNat < s.cfg.nbuf →
      (n = 0 ∨ 8 < n →
        Faults (.buGetu bs x y) s .illegalCommand .badOperand n ∧
        Faults (.buGets bs x y) s .illegalCommand .badOperand n) ∧
      (1 ≤ n → n ≤ 8 → (s.buf bs).length < x.toNat + n →
        Faults (.buGetu bs x y) s .outOfRange .fieldOutOfRange 0 ∧
        Faults (.buGets bs x y) s .outOfRange .fieldOutOfRange 0) ∧
      (1 ≤ n → n ≤ 8 → x.toNat + n ≤ (s.buf bs).length →
        (∃ t, exec (.buGetu bs x y) s = .next t ∧ t.res[0].toNat = u ∧
          SameMem s t ∧ SameResFrom 1 s t ∧ SameUnits s t ∧ Answers t [] []) ∧
        (∃ t, exec (.buGets bs x y) s = .next t ∧
          t.res[0].toInt = (if u < 2 ^ (8 * n - 1) then (u : Int) else (u : Int) - 2 ^ (8 * n)) ∧
          SameMem s t ∧ SameResFrom 1 s t ∧ SameUnits s t ∧ Answers t [] [])))

/-- 40_binaryunit.md R139, R140, R143, R144: `BU.SETU` and `BU.SETS` store the low `8y` bits,
big-endian. -/
def Obligations.IntegerWrites : Prop :=
  ∀ (s : State) (bd : BufIx) (x y : Scalar) (v : Value),
    let n := y.toNat
    ∀ i ∈ [Instr.buSetu bd x y v, Instr.buSets bd x y v],
      NeedsBuf i s bd ∧
      (bd.toNat < s.cfg.nbuf →
        (n = 0 ∨ 8 < n → Faults i s .illegalCommand .badOperand n) ∧
        (1 ≤ n → n ≤ 8 → (s.buf bd).length < x.toNat + n →
          Faults i s .outOfRange .fieldOutOfRange 0) ∧
        (1 ≤ n → n ≤ 8 → x.toNat + n ≤ (s.buf bd).length →
          ∃ t, exec i s = .next t ∧
            (t.buf bd).length = (s.buf bd).length ∧
            (∀ j < n, ((t.buf bd).getD (x.toNat + j) 0).toNat = v.toNat / 256 ^ (n - 1 - j) % 256) ∧
            (∀ k, k < x.toNat ∨ x.toNat + n ≤ k → t.byteAt bd k = s.byteAt bd k) ∧
            SameMemBut bd s t ∧ SameResFrom 0 s t ∧ SameUnits s t ∧ Answers t [] []))

/-- 40_binaryunit.md R145, R146: `BU.GETBYTES` and `BU.SETBYTES`. -/
def Obligations.ByteRuns : Prop :=
  ∀ (s : State) (b : BufIx) (x : Scalar),
    (∀ y, NeedsBuf (.buGetbytes b x y) s b) ∧ (∀ p, NeedsBuf (.buSetbytes b x p) s b) ∧
    (b.toNat < s.cfg.nbuf →
      (∀ y : Scalar, (s.buf b).length < x.toNat + y.toNat →
        Faults (.buGetbytes b x y) s .outOfRange .fieldOutOfRange 0) ∧
      (∀ y : Scalar, x.toNat + y.toNat ≤ (s.buf b).length →
        ∃ t q, exec (.buGetbytes b x y) s = .next t ∧
          q.length = y.toNat ∧ (∀ k < y.toNat, q[k]? = s.byteAt b (x.toNat + k)) ∧
          SameMem s t ∧ SameResFrom 0 s t ∧ SameUnits s t ∧ Answers t q []) ∧
      (∀ p : Bytes, (s.buf b).length < x.toNat + p.length →
        Faults (.buSetbytes b x p) s .outOfRange .fieldOutOfRange 0) ∧
      (∀ p : Bytes, x.toNat + p.length ≤ (s.buf b).length →
        ∃ t, exec (.buSetbytes b x p) s = .next t ∧
          (t.buf b).length = (s.buf b).length ∧
          (∀ k < p.length, t.byteAt b (x.toNat + k) = p[k]?) ∧
          (∀ k, k < x.toNat ∨ x.toNat + p.length ≤ k → t.byteAt b k = s.byteAt b k) ∧
          SameMemBut b s t ∧ SameResFrom 0 s t ∧ SameUnits s t ∧ Answers t [] []))

/-! ### BCH -/

/-- 41_bch.md R164, R165, R166: `BCH.START`, `BCH.STEP` and `BCH.STOP`. -/
def Obligations.BchCommands : Prop :=
  ∀ s : State,
    (∃ t, exec .bchStart s = .next t ∧ t.bchSr = 0 ∧ t.res[0] = 0 ∧
      SameMem s t ∧ SameResFrom 1 s t ∧ SameAsm s t ∧ SamePkt s t ∧ SameRest s t ∧ Answers t [] []) ∧
    (∀ x : Scalar, x.toNat ≤ 255 →
      ∃ t, exec (.bchStep x) s = .next t ∧ t.bchSr = bchTable s.bchSr (BitVec.ofNat 8 x.toNat) ∧
        t.res[0].toNat = t.bchSr.toNat ∧
        SameMem s t ∧ SameResFrom 1 s t ∧ SameAsm s t ∧ SamePkt s t ∧ SameRest s t ∧
        Answers t [] []) ∧
    (∀ x : Scalar, 255 < x.toNat → Faults (.bchStep x) s .illegalCommand .badOperand x.toNat) ∧
    (∃ t, exec .bchStop s = .next t ∧ t.res[0].toNat = 2 * (127 - s.bchSr.toNat) ∧
      SameMem s t ∧ SameResFrom 1 s t ∧ SameUnits s t ∧ Answers t [] [])

/-- 41_bch.md R163, R165, clauses the spec marks as derived from its R161 and R162: entries of the
transition table printed by the spec, its linearity, and that every byte permutes the register's
values. -/
def Obligations.BchTableLaws : Prop :=
  (List.range 16).map (fun b => (bchTable 0 (BitVec.ofNat 8 b)).toNat) =
    [0x00, 0x45, 0x4F, 0x0A, 0x5B, 0x1E, 0x14, 0x51, 0x73, 0x36, 0x3C, 0x79, 0x28, 0x6D, 0x67, 0x22] ∧
  (List.range 16).map (fun s => (bchTable (BitVec.ofNat 7 s) 0).toNat) =
    [0x00, 0x4F, 0x5B, 0x14, 0x73, 0x3C, 0x28, 0x67, 0x23, 0x6C, 0x78, 0x37, 0x50, 0x1F, 0x0B, 0x44] ∧
  (∀ (s : BitVec 7) (b : Byte), bchTable s b = bchTable s 0 ^^^ bchTable 0 b) ∧
  (∀ b : Byte, Function.Bijective fun s : BitVec 7 => bchTable s b)

/-- 41_bch.md R161 (the reading of the tap set is the spec's, from general knowledge, 93 G2): one
clock of the register, and that clocking the bits of a message in from state 0 leaves the remainder
of `m(x) * x^7` divided by `x^7 + x^6 + x^2 + 1` over GF(2). R162 (its bit order from general
knowledge, 93 G3) and R163: every entry `T[s][b]` of the transition table is eight clocks of that
register, the most significant bit of the byte first. -/
def Obligations.BchRemainder : Prop :=
  (∀ (s : BitVec 7) (b : Bool),
    (bchClock s b).toNat =
      (2 * s.toNat % 128) ^^^ (if (b ^^ decide (64 ≤ s.toNat)) = true then 0x45 else 0)) ∧
  (∀ bits : List Bool,
    ((∑ j ∈ Finset.range bits.length,
        if bits.getD j false = true then
          (Polynomial.X : Polynomial (ZMod 2)) ^ (bits.length - 1 - j) else 0) *
        Polynomial.X ^ 7) %ₘ
      (Polynomial.X ^ 7 + Polynomial.X ^ 6 + Polynomial.X ^ 2 + 1) =
    ∑ k ∈ Finset.range 7,
      if (bits.foldl bchClock 0).getLsbD k = true then Polynomial.X ^ k else 0) ∧
  (∀ (s : BitVec 7) (b : Byte),
    bchTable s b = ((List.range 8).map fun j => b.getLsbD (7 - j)).foldl bchClock s)

/-- 41_bch.md R167, 30_encoding.md R105: the check byte of a block is what `BCH.START`, `BCH.STEP`
for each of its bytes and `BCH.STOP` leave in `RES[0]`; it is even, and its upper seven bits are the
complement of the register. -/
def Obligations.CheckByteBySteps : Prop :=
  ∀ (s : State) (d : Bytes),
    (∃ t, runs ([.bchStart] ++ d.map (fun b => Instr.bchStep (b.setWidth 32)) ++ [.bchStop]) s =
        some t ∧
      t.res[0].toNat = (bchCheck d).toNat ∧ (bchCheck d).toNat = 2 * (127 - t.bchSr.toNat) ∧
      t.bchSr = d.foldl bchTable 0 ∧ SameMem s t) ∧
    (bchCheck d).getLsbD 0 = false

/-! ### CLTU -/

/-- 42_cltu.md R176, R177, 30_encoding.md R106, R107: `CLTU.ENC`. -/
def Obligations.CltuEncLayout : Prop :=
  ∀ (s : State) (bd bs : BufIx),
    let f := s.buf bs
    let k := (f.length + 6) / 7
    NeedsBuf (.cltuEnc bd bs) s bs ∧ (bs.toNat < s.cfg.nbuf → NeedsBuf (.cltuEnc bd bs) s bd) ∧
    (bs.toNat < s.cfg.nbuf → bd.toNat < s.cfg.nbuf →
      (s.cfg.bufCap < 10 + 8 * k →
        Faults (.cltuEnc bd bs) s .capacity .bufferCapacity (10 + 8 * k)) ∧
      (10 + 8 * k ≤ s.cfg.bufCap →
        ∃ t, exec (.cltuEnc bd bs) s = .next t ∧
          (t.buf bd).length = 10 + 8 * k ∧
          (t.buf bd).take 2 = [0xEB, 0x90] ∧
          (t.buf bd).drop (2 + 8 * k) = List.replicate 8 0x55 ∧
          (∀ i < k, ∀ j < 7, (t.buf bd).getD (2 + 8 * i + j) 0 = f.getD (7 * i + j) 0x55) ∧
          (∀ i < k, (t.buf bd).getD (9 + 8 * i) 0 = bchCheck (slice (t.buf bd) (2 + 8 * i) 7)) ∧
          t.res[0] = BitVec.ofNat 64 (10 + 8 * k) ∧
          SameMemBut bd s t ∧ SameResFrom 1 s t ∧ SameUnits s t ∧ Answers t [] []))

/-- 42_cltu.md R179, R180: `CLTU.DEC` and `CLTU.CHK` on a CLTU that passes every check, and that
both take the same fault on any other (which one: `CltuRejects`). That the fault is the same is the
sentence of R180 that the spec marks as derived, both calling the validation of R178 first. -/
def Obligations.CltuAccepts : Prop :=
  ∀ (s : State) (bd bs : BufIx),
    NeedsBuf (.cltuDec bd bs) s bs ∧ (bs.toNat < s.cfg.nbuf → NeedsBuf (.cltuDec bd bs) s bd) ∧
    NeedsBuf (.cltuChk bs) s bs ∧
    (bs.toNat < s.cfg.nbuf → (∀ k, ¬ CltuGood (s.buf bs) k) →
      ∃ r a, (r = .cltuTooShort ∨ r = .cltuBadLength ∨ r = .cltuBadStart ∨ r = .cltuBadTrailer ∨
          r = .bchMismatch) ∧
        Faults (.cltuChk bs) s (statusOf r) r a ∧
        (bd.toNat < s.cfg.nbuf → Faults (.cltuDec bd bs) s (statusOf r) r a)) ∧
    (∀ k, bs.toNat < s.cfg.nbuf → CltuGood (s.buf bs) k →
      (bd.toNat < s.cfg.nbuf →
        ∃ t, exec (.cltuDec bd bs) s = .next t ∧
          (t.buf bd).length = 7 * k ∧
          (∀ i < k, ∀ j < 7, (t.buf bd).getD (7 * i + j) 0 = (s.buf bs).getD (2 + 8 * i + j) 0) ∧
          t.res[0] = BitVec.ofNat 64 (7 * k) ∧
          SameMemBut bd s t ∧ SameResFrom 1 s t ∧ SameUnits s t ∧ Answers t [] []) ∧
      (∃ t, exec (.cltuChk bs) s = .next t ∧
        t.res[0] = BitVec.ofNat 64 k ∧
        SameMem s t ∧ SameResFrom 1 s t ∧ SameUnits s t ∧ Answers t [] []))

/-- 42_cltu.md R178, 30_encoding.md R101: the checks of `CLTU.DEC` and `CLTU.CHK`, in their order,
with the status, reason and auxiliary value of the first that fails; with none that fails the CLTU
is one that `CltuAccepts` speaks of. -/
def Obligations.CltuRejects : Prop :=
  ∀ (s : State) (bd bs : BufIx), bs.toNat < s.cfg.nbuf → bd.toNat < s.cfg.nbuf →
    let c := s.buf bs
    let n := c.length
    ∀ i ∈ [Instr.cltuDec bd bs, Instr.cltuChk bs],
      if n < 10 then Faults i s .malformedInput .cltuTooShort n
      else if (n - 10) % 8 ≠ 0 then Faults i s .malformedInput .cltuBadLength n
      else if c.take 2 ≠ [0xEB, 0x90] then
        Faults i s .malformedInput .cltuBadStart ((c.getD 0 0).toNat * 256 + (c.getD 1 0).toNat)
      else if c.drop (n - 8) ≠ List.replicate 8 0x55 then
        Faults i s .malformedInput .cltuBadTrailer 0
      else
        (∀ b < (n - 10) / 8,
          (∀ a < b, bchCheck (slice c (2 + 8 * a) 7) = c.getD (9 + 8 * a) 0) →
          bchCheck (slice c (2 + 8 * b) 7) ≠ c.getD (9 + 8 * b) 0 →
            Faults i s .integrityFailure .bchMismatch b) ∧
        ((∀ b < (n - 10) / 8, bchCheck (slice c (2 + 8 * b) 7) = c.getD (9 + 8 * b) 0) →
          CltuGood c ((n - 10) / 8))

/-- 42_cltu.md R182, which the spec marks as derived from its R176, R178 and R179: decoding what was
encoded gives the bytes back, followed by fill bytes only. -/
def Obligations.CltuRoundTrip : Prop :=
  ∀ (s : State) (b0 b1 b2 : BufIx),
    b0.toNat < s.cfg.nbuf → b1.toNat < s.cfg.nbuf → b2.toNat < s.cfg.nbuf →
    10 + 8 * (((s.buf b0).length + 6) / 7) ≤ s.cfg.bufCap →
      ∃ t, runs [.cltuEnc b1 b0, .cltuDec b2 b1] s = some t ∧
        (t.buf b2).take (s.buf b0).length = s.buf b0 ∧
        (t.buf b2).length = 7 * (((s.buf b0).length + 6) / 7) ∧
        ∀ b ∈ (t.buf b2).drop (s.buf b0).length, b = 0x55

/-- 41_bch.md R168, which the spec marks as derived and checked by enumeration: inverting any one
bit, or any two bits, of one code block of a CLTU that passes makes `CLTU.DEC` and `CLTU.CHK` report
that block. -/
def Obligations.CltuBitErrorsFound : Prop :=
  ∀ (s : State) (bd bs : BufIx) (c : Bytes) (k i p q : Nat),
    bs.toNat < s.cfg.nbuf → bd.toNat < s.cfg.nbuf → CltuGood c k → i < k →
    16 + 64 * i ≤ p → p < 16 + 64 * (i + 1) → 16 + 64 * i ≤ q → q < 16 + 64 * (i + 1) →
    s.buf bs = (if p = q then flipBit c p else flipBit (flipBit c p) q) →
      Faults (.cltuDec bd bs) s .integrityFailure .bchMismatch i ∧
      Faults (.cltuChk bs) s .integrityFailure .bchMismatch i

/-! ### CRC -/

/-- 43_crc16.md R191: `CRC.CALC`. -/
def Obligations.CrcCalcComputes : Prop :=
  ∀ (s : State) (bs : BufIx) (x y : Scalar),
    NeedsBuf (.crcCalc bs x y) s bs ∧
    (bs.toNat < s.cfg.nbuf →
      ((s.buf bs).length < x.toNat + y.toNat →
        Faults (.crcCalc bs x y) s .outOfRange .fieldOutOfRange 0) ∧
      (x.toNat + y.toNat ≤ (s.buf bs).length →
        ∃ t, exec (.crcCalc bs x y) s = .next t ∧
          t.res[0].toNat = (crc16 (((s.buf bs).drop x.toNat).take y.toNat)).toNat ∧
          SameMem s t ∧ SameResFrom 1 s t ∧ SameUnits s t ∧ Answers t [] []))

/-- 43_crc16.md R192, R193: `CRC.SET` and `CRC.CHK`. -/
def Obligations.CrcSetAndChk : Prop :=
  ∀ (s : State) (b : BufIx),
    let n := (s.buf b).length
    let c := crc16 ((s.buf b).take (n - 2))
    NeedsBuf (.crcSet b) s b ∧ NeedsBuf (.crcChk b) s b ∧
    (b.toNat < s.cfg.nbuf →
      (n < 2 →
        Faults (.crcSet b) s .outOfRange .fieldOutOfRange 0 ∧
        Faults (.crcChk b) s .outOfRange .fieldOutOfRange 0) ∧
      (2 ≤ n →
        (∃ t, exec (.crcSet b) s = .next t ∧
          (t.buf b).length = n ∧
          (∀ k, k < n - 2 → t.byteAt b k = s.byteAt b k) ∧
          ((t.buf b).getD (n - 2) 0).toNat = c.toNat / 256 ∧
          ((t.buf b).getD (n - 1) 0).toNat = c.toNat % 256 ∧
          t.res[0].toNat = c.toNat ∧
          SameMemBut b s t ∧ SameResFrom 1 s t ∧ SameUnits s t ∧ Answers t [] []) ∧
        (CrcAgrees (s.buf b) →
          ∃ t, exec (.crcChk b) s = .next t ∧ t.res[0].toNat = c.toNat ∧
            SameMem s t ∧ SameResFrom 1 s t ∧ SameUnits s t ∧ Answers t [] []) ∧
        (¬ CrcAgrees (s.buf b) →
          Faults (.crcChk b) s .integrityFailure .crcMismatch c.toNat)))

/-- 43_crc16.md R194, R195, both marked by the spec as derived: `CRC.CHK` accepts what `CRC.SET`
leaves, with the same value in `RES[0]`; and the CRC of a sequence followed by its CRC is 0. -/
def Obligations.CrcRoundTrip : Prop :=
  (∀ (s : State) (b : BufIx), b.toNat < s.cfg.nbuf → 2 ≤ (s.buf b).length →
    ∃ t u, runs [.crcSet b] s = some t ∧ runs [.crcChk b] t = some u ∧ u.res[0] = t.res[0]) ∧
  (∀ m : Bytes, crc16 (m ++ toBe (crc16 m).toNat 2) = 0)

/-- 43_crc16.md R190 (the register structure is the spec's, from general knowledge, 93 G11): one
clock of the register, eight clocks to a byte, the preset, and that the CRC of `n` bytes is the
remainder of `m(x) * x^16 + (x^15 + ... + 1) * x^(8n)` divided by `x^16 + x^12 + x^5 + 1` over
GF(2). -/
def Obligations.CrcRemainder : Prop :=
  (∀ (r : BitVec 16) (b : Bool),
    (crcClock r b).toNat =
      (2 * r.toNat % 65536) ^^^ (if (b ^^ decide (32768 ≤ r.toNat)) = true then 0x1021 else 0)) ∧
  crc16 [] = 0xFFFF ∧
  (∀ (m : Bytes) (c : Byte),
    crc16 (m ++ [c]) =
      ((List.range 8).map fun j => c.getLsbD (7 - j)).foldl crcClock (crc16 m)) ∧
  (∀ m : Bytes,
    ((∑ j ∈ Finset.range (8 * m.length),
        if bitValue m j = 1 then
          (Polynomial.X : Polynomial (ZMod 2)) ^ (8 * m.length - 1 - j) else 0) *
        Polynomial.X ^ 16 +
      (∑ k ∈ Finset.range 16, Polynomial.X ^ k) * Polynomial.X ^ (8 * m.length)) %ₘ
      (Polynomial.X ^ 16 + Polynomial.X ^ 12 + Polynomial.X ^ 5 + 1) =
    ∑ k ∈ Finset.range 16, if (crc16 m).getLsbD k = true then Polynomial.X ^ k else 0)

/-- 43_crc16.md R196, which the spec marks as derived from its R190: a change confined to one window
of 16 bits of a buffer that passes makes `CRC.CHK` report a mismatch, with the CRC computed from the
changed bytes. -/
def Obligations.CrcBurstFound : Prop :=
  ∀ (s : State) (bs : BufIx) (f : Bytes) (p : Nat),
    bs.toNat < s.cfg.nbuf → 2 ≤ f.length → CrcAgrees f →
    (s.buf bs).length = f.length → s.buf bs ≠ f →
    (∀ q, q < p ∨ p + 16 ≤ q → bitValue (s.buf bs) q = bitValue f q) →
      Faults (.crcChk bs) s .integrityFailure .crcMismatch
        (crc16 ((s.buf bs).take (f.length - 2))).toNat

/-! ### HDR -/

/-- 44_frame_packet.md R201, R205: `HDR.TMF`, the fields as formulas over the bytes (30_encoding.md
R111). -/
def Obligations.HdrTmfReads : Prop :=
  ∀ (s : State) (bs : BufIx) (x : Scalar),
    let avail := (s.buf bs).length - x.toNat
    let b := fun j => ((s.buf bs).getD (x.toNat + j) 0).toNat
    let fhp := b 4 % 8 * 256 + b 5
    NeedsBuf (.hdrTmf bs x) s bs ∧
    (bs.toNat < s.cfg.nbuf →
      (avail < 6 → Faults (.hdrTmf bs x) s .malformedInput .shortHeader avail) ∧
      (6 ≤ avail →
        ∃ t, exec (.hdrTmf bs x) s = .next t ∧
          (t.res.toList.take 12).map BitVec.toNat =
            [b 0 / 64, b 0 % 64 * 16 + b 1 / 16, b 1 / 2 % 8, b 1 % 2, b 2, b 3, b 4 / 128,
             b 4 / 64 % 2, b 4 / 32 % 2, b 4 / 8 % 4, fhp,
             if fhp = 0x7FF then 1 else if fhp = 0x7FE then 2 else 0] ∧
          SameMem s t ∧ SameResFrom 12 s t ∧ SameUnits s t ∧ Answers t [] []))

/-- 44_frame_packet.md R202, R204: `HDR.TCF` and `HDR.SEG`. -/
def Obligations.HdrTcfAndSegRead : Prop :=
  ∀ (s : State) (bs : BufIx) (x : Scalar),
    let avail := (s.buf bs).length - x.toNat
    let b := fun j => ((s.buf bs).getD (x.toNat + j) 0).toNat
    NeedsBuf (.hdrTcf bs x) s bs ∧ NeedsBuf (.hdrSeg bs x) s bs ∧
    (bs.toNat < s.cfg.nbuf →
      (avail < 5 → Faults (.hdrTcf bs x) s .malformedInput .shortHeader avail) ∧
      (5 ≤ avail →
        ∃ t, exec (.hdrTcf bs x) s = .next t ∧
          (t.res.toList.take 9).map BitVec.toNat =
            [b 0 / 64, b 0 / 32 % 2, b 0 / 16 % 2, b 0 / 4 % 4, b 0 % 4 * 256 + b 1, b 2 / 4,
             b 2 % 4 * 256 + b 3, b 4, b 2 % 4 * 256 + b 3 + 1] ∧
          SameMem s t ∧ SameResFrom 9 s t ∧ SameUnits s t ∧ Answers t [] []) ∧
      (avail < 1 → Faults (.hdrSeg bs x) s .malformedInput .shortHeader avail) ∧
      (1 ≤ avail →
        ∃ t, exec (.hdrSeg bs x) s = .next t ∧
          (t.res.toList.take 2).map BitVec.toNat = [b 0 / 64, b 0 % 64] ∧
          SameMem s t ∧ SameResFrom 2 s t ∧ SameUnits s t ∧ Answers t [] []))

/-- 44_frame_packet.md R203: `HDR.PKT`. -/
def Obligations.HdrPktReads : Prop :=
  ∀ (s : State) (bs : BufIx) (x : Scalar),
    let avail := (s.buf bs).length - x.toNat
    let b := fun j => ((s.buf bs).getD (x.toNat + j) 0).toNat
    NeedsBuf (.hdrPkt bs x) s bs ∧
    (bs.toNat < s.cfg.nbuf →
      (avail < 7 → Faults (.hdrPkt bs x) s .malformedInput .shortHeader avail) ∧
      (7 ≤ avail →
        ∃ t, exec (.hdrPkt bs x) s = .next t ∧
          (t.res.toList.take 9).map BitVec.toNat =
            [b 0 / 32, b 0 / 16 % 2, b 0 / 8 % 2, b 0 % 8 * 256 + b 1, b 2 / 64,
             b 2 % 64 * 256 + b 3, b 4 * 256 + b 5, b 4 * 256 + b 5 + 7,
             if b 0 % 8 * 256 + b 1 = 2047 then 1 else 0] ∧
          SameMem s t ∧ SameResFrom 9 s t ∧ SameUnits s t ∧ Answers t [] []))

/-- 44_frame_packet.md R200, 40_binaryunit.md R148: each field an `HDR` command returns is what
`BU.GETBITS` returns for its offset and width. -/
def Obligations.HdrEqualsGetbits : Prop :=
  ∀ (s t : State) (bs : BufIx) (x : Scalar) (i : Instr) (fields : List (Nat × Nat)),
    configValid s.cfg = true → 8 * x.toNat + 48 ≤ 2 ^ 32 →
    (i, fields) ∈ [(Instr.hdrTmf bs x, tmfFields), (Instr.hdrTcf bs x, tcfFields),
      (Instr.hdrPkt bs x, pktFields), (Instr.hdrSeg bs x, segFields)] →
    okNext (exec i s) = some t →
      ∀ (j : Fin 16) (f : Nat × Nat), fields[j.val]? = some f →
        ∃ u, okNext (exec (.buGetbits bs (BitVec.ofNat 32 (8 * x.toNat + f.1))
            (BitVec.ofNat 32 f.2)) s) = some u ∧ t.res[j] = u.res[0]

/-- 44_frame_packet.md R206: the frame check of `TMF.SPLIT` and `PKT.PUSH`, size, then CRC, then
pointer. -/
def Obligations.BadFramesRejected : Prop :=
  ∀ (s : State) (bs : BufIx), configValid s.cfg = true → bs.toNat < s.cfg.nbuf →
    let f := s.buf bs
    ∀ i ∈ [Instr.tmfSplit bs, Instr.pktPush bs],
      if f.length ≠ s.cfg.tmFrameSize then Faults i s .malformedInput .badFrameSize f.length
      else if s.cfg.tmHasCrc = true ∧ ¬ CrcAgrees f then
        Faults i s .integrityFailure .crcMismatch (crc16 (f.take (s.cfg.tmFrameSize - 2))).toNat
      else if pointerOf f ≠ 0x7FF ∧ pointerOf f ≠ 0x7FE ∧ dfLen s.cfg ≤ pointerOf f then
        Faults i s .malformedInput .badFhp (pointerOf f)
      else FrameGood s.cfg f ∧ ∃ t, okNext (exec i s) = some t

/-- 44_frame_packet.md R207, R208, R209: `TMF.SPLIT` on a frame that passes the check. The members
are the only ones the conditions allow: the packets' lengths are the ones they declare, and the
trail is too short for the packet it begins. -/
def Obligations.TmfSplitPartitions : Prop :=
  ∀ (s : State) (bs : BufIx), configValid s.cfg = true →
    NeedsBuf (.tmfSplit bs) s bs ∧
    (bs.toNat < s.cfg.nbuf → ¬ FrameGood s.cfg (s.buf bs) →
      ∃ r a, (r = .badFrameSize ∨ r = .crcMismatch ∨ r = .badFhp) ∧
        Faults (.tmfSplit bs) s (statusOf r) r a) ∧
    (bs.toNat < s.cfg.nbuf → FrameGood s.cfg (s.buf bs) →
      let p := pointerOf (s.buf bs)
      let d := dataField s.cfg (s.buf bs)
      ∃ t events, exec (.tmfSplit bs) s = .next t ∧ Answers t [] events ∧
        SameMem s t ∧ SameResFrom 4 s t ∧ SameUnits s t ∧ d.length = dfLen s.cfg ∧
        (p = 0x7FF →
          events = [{ kind := .lead, info := 0, data := d }] ∧
          (t.res.toList.take 4).map BitVec.toNat = [dfLen s.cfg, 0, 0, 1]) ∧
        (p = 0x7FE →
          events = [] ∧ (t.res.toList.take 4).map BitVec.toNat = [0, 0, 0, 2]) ∧
        (p ≠ 0x7FF → p ≠ 0x7FE →
          ∃ (packets : List Bytes) (trail : Bytes),
            d = d.take p ++ packets.flatten ++ trail ∧ (∀ q ∈ packets, IsPacket q) ∧
            (trail.length < 7 ∨ trail.length < sizeDeclared trail) ∧
            events =
              (if p = 0 then [] else [{ kind := .lead, info := 0, data := d.take p }]) ++
              packets.map packetOf ++
              (if trail = [] then [] else [{ kind := .trail, info := 0, data := trail }]) ∧
            (t.res.toList.take 4).map BitVec.toNat = [p, packets.length, trail.length, 0]))

/-! ### ASM -/

/-- 45_assembler.md R222, R223, R224: `ASM.PUSH`. The bytes placed so far and the packet are the data
fields of the frames emitted and the bytes placed afterwards; the number of frames; the pointer of
each; and the fault of a buffer that is no packet. The number of frames (in R224) and that no byte is
lost (R229 (b)) are clauses the spec marks as derived. -/
def Obligations.AsmPushPlacesPacket : Prop :=
  ∀ (s : State) (bs : BufIx), s.Inv →
    NeedsBuf (.asmPush bs) s bs ∧
    (bs.toNat < s.cfg.nbuf →
      (¬ IsPacket (s.buf bs) →
        Faults (.asmPush bs) s .malformedInput .badPacketLength (s.buf bs).length) ∧
      (IsPacket (s.buf bs) →
        ∃ (t : State) (frames : List Bytes),
          exec (.asmPush bs) s = .next t ∧ Answers t [] (frames.map frameOf) ∧
          placed s ++ s.buf bs = (frames.map (dataField s.cfg)).flatten ++ placed t ∧
          frames.length = (s.asmWr.toNat + (s.buf bs).length) / dfLen s.cfg ∧
          t.asmWr.toNat = (s.asmWr.toNat + (s.buf bs).length) % dfLen s.cfg ∧
          t.res[0] = BitVec.ofNat 64 frames.length ∧
          (∀ j f, frames[j]? = some f →
            pointerOf f = if j = 0 then startPointer s else 0x7FF) ∧
          t.asmFhp.toNat = (if frames = [] then startPointer s else 0x7FF) ∧
          t.asmVcfc.toNat = (s.asmVcfc.toNat + frames.length) % 256 ∧
          t.asmMcfc.toNat = (s.asmMcfc.toNat + frames.length) % 256 ∧
          t.asmScid = s.asmScid ∧ t.asmVcid = s.asmVcid ∧
          SameMem s t ∧ SameResFrom 1 s t ∧ t.bchSr = s.bchSr ∧ SamePkt s t ∧ SameRest s t))

/-- 45_assembler.md R222: every event of `ASM.PUSH` and `ASM.FLUSH` is a frame with the header of
the registers, successive counter values and, where the instance has one, its CRC; no pointer is the
idle pattern, and the frame passes the frame check (R229). -/
def Obligations.AsmFramesFinalised : Prop :=
  ∀ (s t : State) (i : Instr) (r : Response), s.Inv →
    (i = .asmFlush ∨ ∃ bs, i = .asmPush bs) →
    exec i s = .next t → t.response = some r →
      ∀ j e, r.events[j]? = some e →
        ∃ f : Bytes, e = frameOf f ∧ f.length = s.cfg.tmFrameSize ∧
          (f.getD 0 0).toNat * 256 + (f.getD 1 0).toNat = s.asmScid.toNat * 16 + s.asmVcid.toNat * 2 ∧
          (f.getD 2 0).toNat = (s.asmMcfc.toNat + j) % 256 ∧
          (f.getD 3 0).toNat = (s.asmVcfc.toNat + j) % 256 ∧
          (f.getD 4 0).toNat * 256 + (f.getD 5 0).toNat = 0x1800 + pointerOf f ∧
          (s.cfg.tmHasCrc = true → CrcAgrees f) ∧ pointerOf f ≠ 0x7FE ∧ FrameGood s.cfg f

/-- 45_assembler.md R225, R226: `ASM.FLUSH`. Nothing to fill: no frame. 7 bytes or more free: one
frame, filled by one idle packet. 1 to 6 bytes free: two frames, a 7-byte idle packet across them
and a second idle packet that fills the second. -/
def Obligations.AsmFlushFills : Prop :=
  ∀ s : State, s.Inv →
    ∃ (t : State) (frames : List Bytes),
      exec .asmFlush s = .next t ∧ Answers t [] (frames.map frameOf) ∧
      t.asmWr = 0 ∧ t.asmFhp = 0x7FF ∧ t.asmFrame = List.replicate s.cfg.tmFrameSize 0x00 ∧
      t.res[0] = BitVec.ofNat 64 frames.length ∧
      (let free := dfLen s.cfg - s.asmWr.toNat
       if s.asmWr = 0 then frames = []
       else if 7 ≤ free then
         ∃ f, frames = [f] ∧ dataField s.cfg f = placed s ++ idleOf s.cfg free ∧
           pointerOf f = startPointer s
       else
         ∃ f g, frames = [f, g] ∧
           dataField s.cfg f ++ dataField s.cfg g =
             placed s ++ idleOf s.cfg 7 ++ idleOf s.cfg (dfLen s.cfg - (7 - free)) ∧
           pointerOf f = startPointer s ∧ pointerOf g = 7 - free) ∧
      t.asmVcfc.toNat = (s.asmVcfc.toNat + frames.length) % 256 ∧
      t.asmMcfc.toNat = (s.asmMcfc.toNat + frames.length) % 256 ∧
      t.asmScid = s.asmScid ∧ t.asmVcid = s.asmVcid ∧
      SameMem s t ∧ SameResFrom 1 s t ∧ t.bchSr = s.bchSr ∧ SamePkt s t ∧ SameRest s t

/-- 45_assembler.md R227: `ASM.INIT`. -/
def Obligations.AsmInitOpens : Prop :=
  ∀ s : State, ∃ t, exec .asmInit s = .next t ∧
    t.asmFrame = List.replicate s.cfg.tmFrameSize 0x00 ∧ t.asmWr = 0 ∧ t.asmFhp = 0x7FF ∧
    t.asmScid = s.asmScid ∧ t.asmVcid = s.asmVcid ∧ t.asmVcfc = s.asmVcfc ∧ t.asmMcfc = s.asmMcfc ∧
    SameMem s t ∧ SameResFrom 0 s t ∧ t.bchSr = s.bchSr ∧ SamePkt s t ∧ SameRest s t ∧ Answers t [] []

/-! ### PKT -/

/-- 46_packetizer.md R236 to R239: `PKT.PUSH` on a frame that passes the check: nothing for an idle
frame; else the leading fragment, the complete packets and the trailing fragment. -/
def Obligations.PktPushReassembles : Prop :=
  ∀ (s : State) (bs : BufIx), s.Inv →
    NeedsBuf (.pktPush bs) s bs ∧
    (bs.toNat < s.cfg.nbuf → ¬ FrameGood s.cfg (s.buf bs) →
      ∃ r a, (r = .badFrameSize ∨ r = .crcMismatch ∨ r = .badFhp) ∧
        Faults (.pktPush bs) s (statusOf r) r a) ∧
    (bs.toNat < s.cfg.nbuf → FrameGood s.cfg (s.buf bs) →
      let p := pointerOf (s.buf bs)
      let d := dataField s.cfg (s.buf bs)
      let drop : Bool := decide (s.pktCtrl = 1)
      let orphan : BitVec 3 := if s.pktCarry = [] then 0b001 else 0
      ∃ t events, exec (.pktPush bs) s = .next t ∧ Answers t [] events ∧
        t.res[0] = BitVec.ofNat 64 events.length ∧
        t.res[1].toNat = (if p = 0x7FF then 1 else if p = 0x7FE then 2 else 0) ∧
        SameMem s t ∧ SameResFrom 2 s t ∧ t.bchSr = s.bchSr ∧ SameAsm s t ∧ SameRest s t ∧
        t.pktCtrl = s.pktCtrl ∧
        (p = 0x7FE → events = [] ∧ SamePkt s t) ∧
        (p = 0x7FF →
          let a := afterLead drop false s.pktCarry d
          Carries t a.1 ∧ events = a.2.1 ∧ t.pktStatus = s.pktStatus ||| orphan ||| a.2.2) ∧
        (p ≠ 0x7FF → p ≠ 0x7FE →
          let a := afterLead drop true s.pktCarry (d.take p)
          ∃ (packets : List Bytes) (trail : Bytes),
            d = d.take p ++ packets.flatten ++ trail ∧ (∀ q ∈ packets, IsPacket q) ∧
            (trail.length < 7 ∨ trail.length < sizeDeclared trail) ∧
            a.1 = [] ∧ Carries t trail ∧
            events = a.2.1 ++ packets.flatMap (delivered drop) ∧
            t.pktStatus = s.pktStatus ||| (if p = 0 then 0 else orphan) ||| a.2.2))

/-- 60_exceptions.md R287, which the spec marks as derived from its R237 to R240: with `DROP_IDLE` 0
no byte that enters the Packetizer is dropped silently: the carry and the data field of a frame that
is not idle are, in order, the bytes of the events and the carry left; and `PKT.CLEAR` returns the
carry. -/
def Obligations.PacketizerKeepsEveryByte : Prop :=
  (∀ (s t : State) (bs : BufIx) (r : Response), s.Inv → s.pktCtrl = 0 →
    exec (.pktPush bs) s = .next t → t.response = some r → r.status = .ok →
    pointerOf (s.buf bs) ≠ 0x7FE →
      s.pktCarry ++ dataField s.cfg (s.buf bs) = (r.events.map Event.data).flatten ++ t.pktCarry) ∧
  (∀ (s t : State) (r : Response),
    exec .pktClear s = .next t → t.response = some r →
      s.pktCarry = (r.events.map Event.data).flatten ∧ t.pktCarry = [])

/-- 46_packetizer.md R240: `PKT.CLEAR`. -/
def Obligations.PktClearDiscards : Prop :=
  ∀ s : State, s.Inv →
    ∃ t, exec .pktClear s = .next t ∧
      Carries t [] ∧ t.pktCtrl = s.pktCtrl ∧
      t.pktStatus = s.pktStatus ||| (if s.pktCarry = [] then 0 else 0b010) ∧
      Answers t [] (if s.pktCarry = [] then [] else [discardOf 3 s.pktCarry]) ∧
      t.res[0] = BitVec.ofNat 64 s.pktCarry.length ∧
      SameMem s t ∧ SameResFrom 1 s t ∧ t.bchSr = s.bchSr ∧ SameAsm s t ∧ SameRest s t

/-- 46_packetizer.md R242, reassembly equivalence, marked by the spec as derived from its R229 and
R239: "with the same parameters on both sides: start from reset". Packets given to the Assembler of
an instance that was just reset, then `ASM.FLUSH`; every frame emitted given to the Packetizer of an
instance with the same parameters that was just reset: every command completes with `OK`, the events
are exactly the packets, followed by at most two idle packets; nothing is discarded and nothing is
left. With `DROP_IDLE` 1, and no idle packet among the packets, the events are exactly the packets.
-/
def Obligations.ReassemblyEquivalence : Prop :=
  ∀ (c : Config) (packets : List Bytes), configValid c = true →
    (∀ q ∈ packets, IsPacket q ∧ q.length ≤ c.bufCap) →
    ∃ (t u : State) (pushed : List Event) (frames : List Bytes),
      feed (.asmPush 0) (State.resetFor c) packets = some (t, pushed) ∧
      exec .asmFlush t = .next u ∧ pushed ++ eventsOf u = frames.map frameOf ∧
      (∃ (v : State) (idle : List Bytes),
        feed (.pktPush 0) (State.resetFor c) frames = some (v, (packets ++ idle).map packetOf) ∧
        idle.length ≤ 2 ∧ (∀ q ∈ idle, (packetOf q).info = 1) ∧
        v.pktCarry = [] ∧ v.pktStatus = 0) ∧
      ((∀ q ∈ packets, (packetOf q).info = 0) →
        ∃ v : State,
          feed (.pktPush 0) { State.resetFor c with pktCtrl := 1 } frames =
            some (v, packets.map packetOf) ∧ v.pktCarry = [] ∧ v.pktStatus = 0)
end

