-- ==== Sys2Proof/Laws/Bytes.lean ====
section
/-! SUPPORT. Lengths and contents of the byte sequences the operations build, and big-endian
conversion. -/

namespace Sys2Proof.Machine

/-! ### big-endian numbers -/

theorem be_foldl (t : Bytes) (n : Nat) :
    t.foldl (fun n b => n * 256 + b.toNat) n = n * 256 ^ t.length + be t := by
  induction t generalizing n with
  | nil => simp [be]
  | cons b t ih =>
    have h : be (b :: t) = b.toNat * 256 ^ t.length + be t := by
      have := ih (0 * 256 + b.toNat)
      rw [Nat.zero_mul, Nat.zero_add] at this
      rw [← this]; simp [be]
    rw [List.foldl_cons, ih, h, List.length_cons, pow_succ]
    ring

theorem be_append (s t : Bytes) : be (s ++ t) = be s * 256 ^ t.length + be t := by
  rw [be, List.foldl_append, be_foldl]; rfl

theorem be_cons (b : Byte) (s : Bytes) : be (b :: s) = b.toNat * 256 ^ s.length + be s := by
  simpa [be] using be_append [b] s

@[simp] theorem be_nil : be [] = 0 := rfl

@[simp] theorem be_singleton (b : Byte) : be [b] = b.toNat := by simp [be]

theorem be_pair (a b : Byte) : be [a, b] = a.toNat * 256 + b.toNat := by simp [be]

theorem be_lt (s : Bytes) : be s < 256 ^ s.length := by
  induction s with
  | nil => simp
  | cons b s ih =>
    have := b.isLt
    rw [be_cons, List.length_cons, pow_succ]
    nlinarith [Nat.pos_of_ne_zero (pow_ne_zero s.length (by norm_num : (256 : Nat) ≠ 0))]

@[simp] theorem toBe_length (v n : Nat) : (toBe v n).length = n := by
  induction n with
  | zero => rfl
  | succ n ih => simp [toBe, ih]

theorem be_toBe (v n : Nat) : be (toBe v n) = v % 256 ^ n := by
  induction n with
  | zero => simp [toBe, Nat.mod_one]
  | succ n ih =>
    have h : (BitVec.ofNat 8 (v / 256 ^ n)).toNat = v / 256 ^ n % 256 := by simp
    rw [toBe, be_cons, toBe_length, ih, h, pow_succ, Nat.mod_mul, Nat.add_comm, Nat.mul_comm]

theorem toBe_be (s : Bytes) : toBe (be s) s.length = s := by
  induction s with
  | nil => rfl
  | cons b s ih =>
    have hl := be_lt s
    have hp : 0 < 256 ^ s.length := pow_pos (by norm_num) _
    have key : ∀ m n v : Nat, n ≤ m → toBe (v + 256 ^ m * b.toNat) n = toBe v n := by
      intro m n v hn
      induction n with
      | zero => rfl
      | succ n ih =>
        have hn' : n < m := hn
        simp only [toBe, ih (Nat.le_of_lt hn')]
        congr 1
        apply BitVec.eq_of_toNat_eq
        simp only [BitVec.toNat_ofNat]
        obtain ⟨d, rfl⟩ := Nat.exists_eq_add_of_lt hn'
        rw [show 256 ^ (n + d + 1) * b.toNat = 256 ^ n * (256 * (256 ^ d * b.toNat)) by ring,
          Nat.add_mul_div_left _ _ (pow_pos (by norm_num) n)]
        omega
    simp only [List.length_cons, toBe, be_cons]
    congr 1
    · apply BitVec.eq_of_toNat_eq
      rw [Nat.mul_comm, Nat.mul_add_div hp, Nat.div_eq_of_lt hl]
      have := b.isLt
      simp
    · rw [Nat.add_comm, Nat.mul_comm, key _ _ _ le_rfl, ih]

theorem toBe_getD (v n k : Nat) (h : k < n) :
    (toBe v n).getD k 0 = BitVec.ofNat 8 (v / 256 ^ (n - 1 - k)) := by
  induction n generalizing k with
  | zero => omega
  | succ n ih =>
    cases k with
    | zero => simp [toBe]
    | succ k =>
      have hk : k < n := by omega
      simp only [toBe, List.getD_cons_succ, ih k hk]
      congr 3; omega

/-! ### slices and overwriting -/

@[simp] theorem slice_length (s : Bytes) (off n : Nat) :
    (slice s off n).length = min n (s.length - off) := by
  simp [slice]

theorem slice_getD (s : Bytes) (off n k : Nat) (h : k < n) :
    (slice s off n).getD k 0 = s.getD (off + k) 0 := by
  simp [slice, List.getD_eq_getElem?_getD, h]

theorem overwrite_length (s : Bytes) (off : Nat) (t : Bytes) (h : off + t.length ≤ s.length) :
    (overwrite s off t).length = s.length := by
  simp [overwrite]; omega

theorem overwrite_getElem? (s : Bytes) (off : Nat) (t : Bytes) (k : Nat)
    (h : off + t.length ≤ s.length) :
    (overwrite s off t)[k]? =
      if off ≤ k ∧ k < off + t.length then t[k - off]? else s[k]? := by
  unfold overwrite
  have h1 : (s.take off).length = off := by simp; omega
  rw [List.append_assoc, List.getElem?_append, h1]
  by_cases hk : k < off
  · simp [hk, show ¬ off ≤ k by omega]
  · rw [if_neg hk, List.getElem?_append]
    by_cases hk2 : k - off < t.length
    · simp [hk2, show off ≤ k by omega, show k < off + t.length by omega]
    · rw [if_neg hk2, List.getElem?_drop, if_neg (by omega)]
      congr 1; omega

/-! ### bits -/

@[simp] theorem setBitAt_length (s : Bytes) (p : Nat) (b : Bool) :
    (setBitAt s p b).length = s.length := by simp [setBitAt]

@[simp] theorem setBitField_length (s : Bytes) (p w v : Nat) :
    (setBitField s p w v).length = s.length := by
  induction w generalizing v with
  | zero => rfl
  | succ w ih => simp [setBitField, ih]

theorem bitField_lt (s : Bytes) (p w : Nat) : bitField s p w < 2 ^ w := by
  induction w with
  | zero => simp [bitField]
  | succ w ih =>
    have := Bool.toNat_le (bitAt s (p + w))
    simp only [bitField, pow_succ]; omega

theorem setByteBit_getLsbD (c : Byte) (k : Nat) (b : Bool) (j : Nat) (hk : k < 8) (hj : j < 8) :
    (setByteBit c k b).getLsbD j = if j = k then b else c.getLsbD j := by
  unfold setByteBit
  rcases Nat.lt_trichotomy j k with h | h | h
  · cases b <;> simp [hj, show ¬ j = k by omega, show j < k by omega]
  · subst h; cases b <;> simp [hj]
  · have h1 : ¬ j < k := by omega
    have h3 : j - k ≠ 0 := by omega
    cases b <;> simp [hj, show ¬ j = k by omega, h1, h3]

/-- One bit after setting one bit of a byte sequence (20_memory.md R68). -/
theorem bitAt_setBitAt (s : Bytes) (p q : Nat) (b : Bool) (hp : p / 8 < s.length) :
    bitAt (setBitAt s p b) q = if q = p then b else bitAt s q := by
  unfold bitAt setBitAt
  by_cases h : q / 8 = p / 8
  · have hs : (s.set (p / 8) (setByteBit (s.getD (p / 8) 0) (7 - p % 8) b)).getD (q / 8) 0
        = setByteBit (s.getD (p / 8) 0) (7 - p % 8) b := by
      rw [h, List.getD_eq_getElem?_getD, List.getElem?_set_self hp]; rfl
    rw [hs, setByteBit_getLsbD _ _ _ _ (by omega) (by omega), h]
    by_cases hq : q = p
    · simp [hq]
    · rw [if_neg hq, if_neg (by omega)]
  · have hs : (s.set (p / 8) (setByteBit (s.getD (p / 8) 0) (7 - p % 8) b)).getD (q / 8) 0
        = s.getD (q / 8) 0 := by
      rw [List.getD_eq_getElem?_getD, List.getElem?_set_ne (by omega), ← List.getD_eq_getElem?_getD]
    rw [hs, if_neg (by rintro rfl; exact h rfl)]

/-- Every bit after setting a bit field (20_memory.md R68). -/
theorem bitAt_setBitField (s : Bytes) (p w v q : Nat) (h : w = 0 ∨ (p + w - 1) / 8 < s.length) :
    bitAt (setBitField s p w v) q =
      if p ≤ q ∧ q < p + w then v.testBit (p + w - 1 - q) else bitAt s q := by
  induction w generalizing v with
  | zero => simp [setBitField]
  | succ w ih =>
    have hl : (p + w) / 8 < s.length := by simpa using h
    have hw : w = 0 ∨ (p + w - 1) / 8 < s.length := by
      by_cases h0 : w = 0
      · exact .inl h0
      · right; omega
    rw [setBitField, bitAt_setBitAt _ _ _ _ (by simpa using hl), ih _ hw]
    by_cases h1 : q = p + w
    · subst h1; simp
    · rw [if_neg h1]
      by_cases h2 : p ≤ q ∧ q < p + w
      · rw [if_pos h2, if_pos (by omega)]
        rw [Nat.testBit_div_two]
        congr 1; omega
      · rw [if_neg h2, if_neg (by omega)]

/-! ### what the commands build -/

@[simp] theorem withLength_length (b : Bytes) (n : Nat) : (withLength b n).length = n := by
  unfold withLength; split <;> simp <;> omega

@[simp] theorem codeBlock_length (g : Bytes) (h : g.length ≤ 7) : (codeBlock g).length = 8 := by
  simp [codeBlock]; omega

@[simp] theorem codeBlocks_length (k : Nat) (f : Bytes) : (codeBlocks k f).length = 8 * k := by
  induction k generalizing f with
  | zero => rfl
  | succ k ih => simp [codeBlocks, ih, codeBlock_length]; omega

@[simp] theorem cltuEncode_length (f : Bytes) :
    (cltuEncode f).length = 10 + 8 * blockCount f.length := by
  simp [cltuEncode, cltuStart, cltuTrailer]; omega

theorem withCrc_length (b : Bytes) (h : 2 ≤ b.length) : (withCrc b).length = b.length := by
  unfold withCrc; apply overwrite_length; simp; omega

end Sys2Proof.Machine
end

