-- ==== Sys2Proof/Laws/State.lean ====
section
/-! SUPPORT. What each named update of the state does to each field: one lemma per field per update, so
that no later proof unfolds a record update. -/

namespace Sys2Proof.Machine

/-! ### `B[i] <- b` -/

@[simp] theorem State.setBuf_cfg (s : State) (i : BufIx) (b : Bytes) :
    (s.setBuf i b).cfg = s.cfg := rfl
@[simp] theorem State.setBuf_res (s : State) (i : BufIx) (b : Bytes) :
    (s.setBuf i b).res = s.res := rfl
@[simp] theorem State.setBuf_errflags (s : State) (i : BufIx) (b : Bytes) :
    (s.setBuf i b).errflags = s.errflags := rfl
@[simp] theorem State.setBuf_bchSr (s : State) (i : BufIx) (b : Bytes) :
    (s.setBuf i b).bchSr = s.bchSr := rfl
@[simp] theorem State.setBuf_bufs (s : State) (i : BufIx) (b : Bytes) :
    (s.setBuf i b).bufs = s.bufs.set i.toNat b := rfl
@[simp] theorem State.setBuf_asmScid (s : State) (i : BufIx) (b : Bytes) :
    (s.setBuf i b).asmScid = s.asmScid := rfl
@[simp] theorem State.setBuf_asmVcid (s : State) (i : BufIx) (b : Bytes) :
    (s.setBuf i b).asmVcid = s.asmVcid := rfl
@[simp] theorem State.setBuf_asmVcfc (s : State) (i : BufIx) (b : Bytes) :
    (s.setBuf i b).asmVcfc = s.asmVcfc := rfl
@[simp] theorem State.setBuf_asmMcfc (s : State) (i : BufIx) (b : Bytes) :
    (s.setBuf i b).asmMcfc = s.asmMcfc := rfl
@[simp] theorem State.setBuf_asmWr (s : State) (i : BufIx) (b : Bytes) :
    (s.setBuf i b).asmWr = s.asmWr := rfl
@[simp] theorem State.setBuf_asmFhp (s : State) (i : BufIx) (b : Bytes) :
    (s.setBuf i b).asmFhp = s.asmFhp := rfl
@[simp] theorem State.setBuf_asmFrame (s : State) (i : BufIx) (b : Bytes) :
    (s.setBuf i b).asmFrame = s.asmFrame := rfl
@[simp] theorem State.setBuf_pktCarry (s : State) (i : BufIx) (b : Bytes) :
    (s.setBuf i b).pktCarry = s.pktCarry := rfl
@[simp] theorem State.setBuf_pktTarget (s : State) (i : BufIx) (b : Bytes) :
    (s.setBuf i b).pktTarget = s.pktTarget := rfl
@[simp] theorem State.setBuf_pktTargetValid (s : State) (i : BufIx) (b : Bytes) :
    (s.setBuf i b).pktTargetValid = s.pktTargetValid := rfl
@[simp] theorem State.setBuf_pktStatus (s : State) (i : BufIx) (b : Bytes) :
    (s.setBuf i b).pktStatus = s.pktStatus := rfl
@[simp] theorem State.setBuf_pktCtrl (s : State) (i : BufIx) (b : Bytes) :
    (s.setBuf i b).pktCtrl = s.pktCtrl := rfl
@[simp] theorem State.setBuf_inputs (s : State) (i : BufIx) (b : Bytes) :
    (s.setBuf i b).inputs = s.inputs := rfl
@[simp] theorem State.setBuf_response (s : State) (i : BufIx) (b : Bytes) :
    (s.setBuf i b).response = s.response := rfl

/-! ### `RES[i] <- v` -/

@[simp] theorem State.setRes_cfg (s : State) (i : Fin 16) (v : Value) :
    (s.setRes i v).cfg = s.cfg := rfl
@[simp] theorem State.setRes_res (s : State) (i : Fin 16) (v : Value) :
    (s.setRes i v).res = s.res.set i v := rfl
@[simp] theorem State.setRes_errflags (s : State) (i : Fin 16) (v : Value) :
    (s.setRes i v).errflags = s.errflags := rfl
@[simp] theorem State.setRes_bchSr (s : State) (i : Fin 16) (v : Value) :
    (s.setRes i v).bchSr = s.bchSr := rfl
@[simp] theorem State.setRes_bufs (s : State) (i : Fin 16) (v : Value) :
    (s.setRes i v).bufs = s.bufs := rfl
@[simp] theorem State.setRes_asmScid (s : State) (i : Fin 16) (v : Value) :
    (s.setRes i v).asmScid = s.asmScid := rfl
@[simp] theorem State.setRes_asmVcid (s : State) (i : Fin 16) (v : Value) :
    (s.setRes i v).asmVcid = s.asmVcid := rfl
@[simp] theorem State.setRes_asmVcfc (s : State) (i : Fin 16) (v : Value) :
    (s.setRes i v).asmVcfc = s.asmVcfc := rfl
@[simp] theorem State.setRes_asmMcfc (s : State) (i : Fin 16) (v : Value) :
    (s.setRes i v).asmMcfc = s.asmMcfc := rfl
@[simp] theorem State.setRes_asmWr (s : State) (i : Fin 16) (v : Value) :
    (s.setRes i v).asmWr = s.asmWr := rfl
@[simp] theorem State.setRes_asmFhp (s : State) (i : Fin 16) (v : Value) :
    (s.setRes i v).asmFhp = s.asmFhp := rfl
@[simp] theorem State.setRes_asmFrame (s : State) (i : Fin 16) (v : Value) :
    (s.setRes i v).asmFrame = s.asmFrame := rfl
@[simp] theorem State.setRes_pktCarry (s : State) (i : Fin 16) (v : Value) :
    (s.setRes i v).pktCarry = s.pktCarry := rfl
@[simp] theorem State.setRes_pktTarget (s : State) (i : Fin 16) (v : Value) :
    (s.setRes i v).pktTarget = s.pktTarget := rfl
@[simp] theorem State.setRes_pktTargetValid (s : State) (i : Fin 16) (v : Value) :
    (s.setRes i v).pktTargetValid = s.pktTargetValid := rfl
@[simp] theorem State.setRes_pktStatus (s : State) (i : Fin 16) (v : Value) :
    (s.setRes i v).pktStatus = s.pktStatus := rfl
@[simp] theorem State.setRes_pktCtrl (s : State) (i : Fin 16) (v : Value) :
    (s.setRes i v).pktCtrl = s.pktCtrl := rfl
@[simp] theorem State.setRes_inputs (s : State) (i : Fin 16) (v : Value) :
    (s.setRes i v).inputs = s.inputs := rfl
@[simp] theorem State.setRes_response (s : State) (i : Fin 16) (v : Value) :
    (s.setRes i v).response = s.response := rfl

/-! ### a completion with `OK` -/

@[simp] theorem answerOk_cfg (s : State) (v : Value) (p : Bytes) (e : List Event) :
    (answerOk s v p e).cfg = s.cfg := rfl
@[simp] theorem answerOk_res (s : State) (v : Value) (p : Bytes) (e : List Event) :
    (answerOk s v p e).res = s.res := rfl
@[simp] theorem answerOk_errflags (s : State) (v : Value) (p : Bytes) (e : List Event) :
    (answerOk s v p e).errflags = s.errflags := rfl
@[simp] theorem answerOk_bchSr (s : State) (v : Value) (p : Bytes) (e : List Event) :
    (answerOk s v p e).bchSr = s.bchSr := rfl
@[simp] theorem answerOk_bufs (s : State) (v : Value) (p : Bytes) (e : List Event) :
    (answerOk s v p e).bufs = s.bufs := rfl
@[simp] theorem answerOk_asmScid (s : State) (v : Value) (p : Bytes) (e : List Event) :
    (answerOk s v p e).asmScid = s.asmScid := rfl
@[simp] theorem answerOk_asmVcid (s : State) (v : Value) (p : Bytes) (e : List Event) :
    (answerOk s v p e).asmVcid = s.asmVcid := rfl
@[simp] theorem answerOk_asmVcfc (s : State) (v : Value) (p : Bytes) (e : List Event) :
    (answerOk s v p e).asmVcfc = s.asmVcfc := rfl
@[simp] theorem answerOk_asmMcfc (s : State) (v : Value) (p : Bytes) (e : List Event) :
    (answerOk s v p e).asmMcfc = s.asmMcfc := rfl
@[simp] theorem answerOk_asmWr (s : State) (v : Value) (p : Bytes) (e : List Event) :
    (answerOk s v p e).asmWr = s.asmWr := rfl
@[simp] theorem answerOk_asmFhp (s : State) (v : Value) (p : Bytes) (e : List Event) :
    (answerOk s v p e).asmFhp = s.asmFhp := rfl
@[simp] theorem answerOk_asmFrame (s : State) (v : Value) (p : Bytes) (e : List Event) :
    (answerOk s v p e).asmFrame = s.asmFrame := rfl
@[simp] theorem answerOk_pktCarry (s : State) (v : Value) (p : Bytes) (e : List Event) :
    (answerOk s v p e).pktCarry = s.pktCarry := rfl
@[simp] theorem answerOk_pktTarget (s : State) (v : Value) (p : Bytes) (e : List Event) :
    (answerOk s v p e).pktTarget = s.pktTarget := rfl
@[simp] theorem answerOk_pktTargetValid (s : State) (v : Value) (p : Bytes) (e : List Event) :
    (answerOk s v p e).pktTargetValid = s.pktTargetValid := rfl
@[simp] theorem answerOk_pktStatus (s : State) (v : Value) (p : Bytes) (e : List Event) :
    (answerOk s v p e).pktStatus = s.pktStatus := rfl
@[simp] theorem answerOk_pktCtrl (s : State) (v : Value) (p : Bytes) (e : List Event) :
    (answerOk s v p e).pktCtrl = s.pktCtrl := rfl
@[simp] theorem answerOk_inputs (s : State) (v : Value) (p : Bytes) (e : List Event) :
    (answerOk s v p e).inputs = s.inputs := rfl
@[simp] theorem answerOk_response (s : State) (v : Value) (p : Bytes) (e : List Event) :
    (answerOk s v p e).response = some { status := .ok, reason := .none, value := v, payload := p, events := e } := rfl

/-! ### taking a fault -/

@[simp] theorem takeFault_cfg (s : State) (r : Reason) (a : Value) :
    (takeFault s r a).cfg = s.cfg := rfl
@[simp] theorem takeFault_res (s : State) (r : Reason) (a : Value) :
    (takeFault s r a).res = s.res := rfl
@[simp] theorem takeFault_errflags (s : State) (r : Reason) (a : Value) :
    (takeFault s r a).errflags = raiseFlag s.errflags (statusOf r) := rfl
@[simp] theorem takeFault_bchSr (s : State) (r : Reason) (a : Value) :
    (takeFault s r a).bchSr = s.bchSr := rfl
@[simp] theorem takeFault_bufs (s : State) (r : Reason) (a : Value) :
    (takeFault s r a).bufs = s.bufs := rfl
@[simp] theorem takeFault_asmScid (s : State) (r : Reason) (a : Value) :
    (takeFault s r a).asmScid = s.asmScid := rfl
@[simp] theorem takeFault_asmVcid (s : State) (r : Reason) (a : Value) :
    (takeFault s r a).asmVcid = s.asmVcid := rfl
@[simp] theorem takeFault_asmVcfc (s : State) (r : Reason) (a : Value) :
    (takeFault s r a).asmVcfc = s.asmVcfc := rfl
@[simp] theorem takeFault_asmMcfc (s : State) (r : Reason) (a : Value) :
    (takeFault s r a).asmMcfc = s.asmMcfc := rfl
@[simp] theorem takeFault_asmWr (s : State) (r : Reason) (a : Value) :
    (takeFault s r a).asmWr = s.asmWr := rfl
@[simp] theorem takeFault_asmFhp (s : State) (r : Reason) (a : Value) :
    (takeFault s r a).asmFhp = s.asmFhp := rfl
@[simp] theorem takeFault_asmFrame (s : State) (r : Reason) (a : Value) :
    (takeFault s r a).asmFrame = s.asmFrame := rfl
@[simp] theorem takeFault_pktCarry (s : State) (r : Reason) (a : Value) :
    (takeFault s r a).pktCarry = s.pktCarry := rfl
@[simp] theorem takeFault_pktTarget (s : State) (r : Reason) (a : Value) :
    (takeFault s r a).pktTarget = s.pktTarget := rfl
@[simp] theorem takeFault_pktTargetValid (s : State) (r : Reason) (a : Value) :
    (takeFault s r a).pktTargetValid = s.pktTargetValid := rfl
@[simp] theorem takeFault_pktStatus (s : State) (r : Reason) (a : Value) :
    (takeFault s r a).pktStatus = s.pktStatus := rfl
@[simp] theorem takeFault_pktCtrl (s : State) (r : Reason) (a : Value) :
    (takeFault s r a).pktCtrl = s.pktCtrl := rfl
@[simp] theorem takeFault_inputs (s : State) (r : Reason) (a : Value) :
    (takeFault s r a).inputs = s.inputs := rfl
@[simp] theorem takeFault_response (s : State) (r : Reason) (a : Value) :
    (takeFault s r a).response = some { status := statusOf r, reason := r, value := a, payload := [], events := [] } := rfl

/-! ### issuing a command -/

@[simp] theorem State.issue_cfg (s : State) (w : CmdWord) (p : Bytes) :
    (s.issue w p).cfg = s.cfg := rfl
@[simp] theorem State.issue_res (s : State) (w : CmdWord) (p : Bytes) :
    (s.issue w p).res = s.res := rfl
@[simp] theorem State.issue_errflags (s : State) (w : CmdWord) (p : Bytes) :
    (s.issue w p).errflags = s.errflags := rfl
@[simp] theorem State.issue_bchSr (s : State) (w : CmdWord) (p : Bytes) :
    (s.issue w p).bchSr = s.bchSr := rfl
@[simp] theorem State.issue_bufs (s : State) (w : CmdWord) (p : Bytes) :
    (s.issue w p).bufs = s.bufs := rfl
@[simp] theorem State.issue_asmScid (s : State) (w : CmdWord) (p : Bytes) :
    (s.issue w p).asmScid = s.asmScid := rfl
@[simp] theorem State.issue_asmVcid (s : State) (w : CmdWord) (p : Bytes) :
    (s.issue w p).asmVcid = s.asmVcid := rfl
@[simp] theorem State.issue_asmVcfc (s : State) (w : CmdWord) (p : Bytes) :
    (s.issue w p).asmVcfc = s.asmVcfc := rfl
@[simp] theorem State.issue_asmMcfc (s : State) (w : CmdWord) (p : Bytes) :
    (s.issue w p).asmMcfc = s.asmMcfc := rfl
@[simp] theorem State.issue_asmWr (s : State) (w : CmdWord) (p : Bytes) :
    (s.issue w p).asmWr = s.asmWr := rfl
@[simp] theorem State.issue_asmFhp (s : State) (w : CmdWord) (p : Bytes) :
    (s.issue w p).asmFhp = s.asmFhp := rfl
@[simp] theorem State.issue_asmFrame (s : State) (w : CmdWord) (p : Bytes) :
    (s.issue w p).asmFrame = s.asmFrame := rfl
@[simp] theorem State.issue_pktCarry (s : State) (w : CmdWord) (p : Bytes) :
    (s.issue w p).pktCarry = s.pktCarry := rfl
@[simp] theorem State.issue_pktTarget (s : State) (w : CmdWord) (p : Bytes) :
    (s.issue w p).pktTarget = s.pktTarget := rfl
@[simp] theorem State.issue_pktTargetValid (s : State) (w : CmdWord) (p : Bytes) :
    (s.issue w p).pktTargetValid = s.pktTargetValid := rfl
@[simp] theorem State.issue_pktStatus (s : State) (w : CmdWord) (p : Bytes) :
    (s.issue w p).pktStatus = s.pktStatus := rfl
@[simp] theorem State.issue_pktCtrl (s : State) (w : CmdWord) (p : Bytes) :
    (s.issue w p).pktCtrl = s.pktCtrl := rfl
@[simp] theorem State.issue_inputs (s : State) (w : CmdWord) (p : Bytes) :
    (s.issue w p).inputs = .command w p :: s.inputs := rfl
@[simp] theorem State.issue_response (s : State) (w : CmdWord) (p : Bytes) :
    (s.issue w p).response = s.response := rfl

/-! ### `asm_open()` -/

@[simp] theorem asmOpen_cfg (s : State) : (asmOpen s).cfg = s.cfg := rfl
@[simp] theorem asmOpen_res (s : State) : (asmOpen s).res = s.res := rfl
@[simp] theorem asmOpen_errflags (s : State) : (asmOpen s).errflags = s.errflags := rfl
@[simp] theorem asmOpen_bchSr (s : State) : (asmOpen s).bchSr = s.bchSr := rfl
@[simp] theorem asmOpen_bufs (s : State) : (asmOpen s).bufs = s.bufs := rfl
@[simp] theorem asmOpen_asmScid (s : State) : (asmOpen s).asmScid = s.asmScid := rfl
@[simp] theorem asmOpen_asmVcid (s : State) : (asmOpen s).asmVcid = s.asmVcid := rfl
@[simp] theorem asmOpen_asmVcfc (s : State) : (asmOpen s).asmVcfc = s.asmVcfc := rfl
@[simp] theorem asmOpen_asmMcfc (s : State) : (asmOpen s).asmMcfc = s.asmMcfc := rfl
@[simp] theorem asmOpen_asmWr (s : State) : (asmOpen s).asmWr = 0 := rfl
@[simp] theorem asmOpen_asmFhp (s : State) : (asmOpen s).asmFhp = 0x7FF := rfl
@[simp] theorem asmOpen_asmFrame (s : State) :
    (asmOpen s).asmFrame = List.replicate s.cfg.tmFrameSize 0x00 := rfl
@[simp] theorem asmOpen_pktCarry (s : State) : (asmOpen s).pktCarry = s.pktCarry := rfl
@[simp] theorem asmOpen_pktTarget (s : State) : (asmOpen s).pktTarget = s.pktTarget := rfl
@[simp] theorem asmOpen_pktTargetValid (s : State) :
    (asmOpen s).pktTargetValid = s.pktTargetValid := rfl
@[simp] theorem asmOpen_pktStatus (s : State) : (asmOpen s).pktStatus = s.pktStatus := rfl
@[simp] theorem asmOpen_pktCtrl (s : State) : (asmOpen s).pktCtrl = s.pktCtrl := rfl
@[simp] theorem asmOpen_inputs (s : State) : (asmOpen s).inputs = s.inputs := rfl
@[simp] theorem asmOpen_response (s : State) : (asmOpen s).response = s.response := rfl

/-! ### copying into the open frame -/

@[simp] theorem asmCopy_cfg (q : Bytes) (s : State) : (asmCopy q s).cfg = s.cfg := rfl
@[simp] theorem asmCopy_res (q : Bytes) (s : State) : (asmCopy q s).res = s.res := rfl
@[simp] theorem asmCopy_errflags (q : Bytes) (s : State) :
    (asmCopy q s).errflags = s.errflags := rfl
@[simp] theorem asmCopy_bchSr (q : Bytes) (s : State) : (asmCopy q s).bchSr = s.bchSr := rfl
@[simp] theorem asmCopy_bufs (q : Bytes) (s : State) : (asmCopy q s).bufs = s.bufs := rfl
@[simp] theorem asmCopy_asmScid (q : Bytes) (s : State) : (asmCopy q s).asmScid = s.asmScid := rfl
@[simp] theorem asmCopy_asmVcid (q : Bytes) (s : State) : (asmCopy q s).asmVcid = s.asmVcid := rfl
@[simp] theorem asmCopy_asmVcfc (q : Bytes) (s : State) : (asmCopy q s).asmVcfc = s.asmVcfc := rfl
@[simp] theorem asmCopy_asmMcfc (q : Bytes) (s : State) : (asmCopy q s).asmMcfc = s.asmMcfc := rfl
@[simp] theorem asmCopy_asmWr (q : Bytes) (s : State) :
    (asmCopy q s).asmWr = BitVec.ofNat 11 (s.asmWr.toNat + q.length) := rfl
@[simp] theorem asmCopy_asmFhp (q : Bytes) (s : State) : (asmCopy q s).asmFhp = s.asmFhp := rfl
@[simp] theorem asmCopy_asmFrame (q : Bytes) (s : State) :
    (asmCopy q s).asmFrame = overwrite s.asmFrame (dfStart + s.asmWr.toNat) q := rfl
@[simp] theorem asmCopy_pktCarry (q : Bytes) (s : State) :
    (asmCopy q s).pktCarry = s.pktCarry := rfl
@[simp] theorem asmCopy_pktTarget (q : Bytes) (s : State) :
    (asmCopy q s).pktTarget = s.pktTarget := rfl
@[simp] theorem asmCopy_pktTargetValid (q : Bytes) (s : State) :
    (asmCopy q s).pktTargetValid = s.pktTargetValid := rfl
@[simp] theorem asmCopy_pktStatus (q : Bytes) (s : State) :
    (asmCopy q s).pktStatus = s.pktStatus := rfl
@[simp] theorem asmCopy_pktCtrl (q : Bytes) (s : State) : (asmCopy q s).pktCtrl = s.pktCtrl := rfl
@[simp] theorem asmCopy_inputs (q : Bytes) (s : State) : (asmCopy q s).inputs = s.inputs := rfl
@[simp] theorem asmCopy_response (q : Bytes) (s : State) :
    (asmCopy q s).response = s.response := rfl

/-! ### `asm_finalize()` -/

@[simp] theorem asmFinalize_cfg (s : State) : (asmFinalize s).cfg = s.cfg := rfl
@[simp] theorem asmFinalize_res (s : State) : (asmFinalize s).res = s.res := rfl
@[simp] theorem asmFinalize_errflags (s : State) : (asmFinalize s).errflags = s.errflags := rfl
@[simp] theorem asmFinalize_bchSr (s : State) : (asmFinalize s).bchSr = s.bchSr := rfl
@[simp] theorem asmFinalize_bufs (s : State) : (asmFinalize s).bufs = s.bufs := rfl
@[simp] theorem asmFinalize_asmScid (s : State) : (asmFinalize s).asmScid = s.asmScid := rfl
@[simp] theorem asmFinalize_asmVcid (s : State) : (asmFinalize s).asmVcid = s.asmVcid := rfl
@[simp] theorem asmFinalize_asmVcfc (s : State) : (asmFinalize s).asmVcfc = s.asmVcfc + 1 := rfl
@[simp] theorem asmFinalize_asmMcfc (s : State) : (asmFinalize s).asmMcfc = s.asmMcfc + 1 := rfl
@[simp] theorem asmFinalize_asmWr (s : State) : (asmFinalize s).asmWr = 0 := rfl
@[simp] theorem asmFinalize_asmFhp (s : State) : (asmFinalize s).asmFhp = 0x7FF := rfl
@[simp] theorem asmFinalize_asmFrame (s : State) :
    (asmFinalize s).asmFrame = List.replicate s.cfg.tmFrameSize 0x00 := rfl
@[simp] theorem asmFinalize_pktCarry (s : State) : (asmFinalize s).pktCarry = s.pktCarry := rfl
@[simp] theorem asmFinalize_pktTarget (s : State) : (asmFinalize s).pktTarget = s.pktTarget := rfl
@[simp] theorem asmFinalize_pktTargetValid (s : State) :
    (asmFinalize s).pktTargetValid = s.pktTargetValid := rfl
@[simp] theorem asmFinalize_pktStatus (s : State) : (asmFinalize s).pktStatus = s.pktStatus := rfl
@[simp] theorem asmFinalize_pktCtrl (s : State) : (asmFinalize s).pktCtrl = s.pktCtrl := rfl
@[simp] theorem asmFinalize_inputs (s : State) : (asmFinalize s).inputs = s.inputs := rfl
@[simp] theorem asmFinalize_response (s : State) : (asmFinalize s).response = s.response := rfl

/-! ### setting bits of `PKT_STATUS` -/

@[simp] theorem setPktStatus_cfg (m : BitVec 3) (s : State) : (setPktStatus m s).cfg = s.cfg := rfl
@[simp] theorem setPktStatus_res (m : BitVec 3) (s : State) : (setPktStatus m s).res = s.res := rfl
@[simp] theorem setPktStatus_errflags (m : BitVec 3) (s : State) :
    (setPktStatus m s).errflags = s.errflags := rfl
@[simp] theorem setPktStatus_bchSr (m : BitVec 3) (s : State) :
    (setPktStatus m s).bchSr = s.bchSr := rfl
@[simp] theorem setPktStatus_bufs (m : BitVec 3) (s : State) :
    (setPktStatus m s).bufs = s.bufs := rfl
@[simp] theorem setPktStatus_asmScid (m : BitVec 3) (s : State) :
    (setPktStatus m s).asmScid = s.asmScid := rfl
@[simp] theorem setPktStatus_asmVcid (m : BitVec 3) (s : State) :
    (setPktStatus m s).asmVcid = s.asmVcid := rfl
@[simp] theorem setPktStatus_asmVcfc (m : BitVec 3) (s : State) :
    (setPktStatus m s).asmVcfc = s.asmVcfc := rfl
@[simp] theorem setPktStatus_asmMcfc (m : BitVec 3) (s : State) :
    (setPktStatus m s).asmMcfc = s.asmMcfc := rfl
@[simp] theorem setPktStatus_asmWr (m : BitVec 3) (s : State) :
    (setPktStatus m s).asmWr = s.asmWr := rfl
@[simp] theorem setPktStatus_asmFhp (m : BitVec 3) (s : State) :
    (setPktStatus m s).asmFhp = s.asmFhp := rfl
@[simp] theorem setPktStatus_asmFrame (m : BitVec 3) (s : State) :
    (setPktStatus m s).asmFrame = s.asmFrame := rfl
@[simp] theorem setPktStatus_pktCarry (m : BitVec 3) (s : State) :
    (setPktStatus m s).pktCarry = s.pktCarry := rfl
@[simp] theorem setPktStatus_pktTarget (m : BitVec 3) (s : State) :
    (setPktStatus m s).pktTarget = s.pktTarget := rfl
@[simp] theorem setPktStatus_pktTargetValid (m : BitVec 3) (s : State) :
    (setPktStatus m s).pktTargetValid = s.pktTargetValid := rfl
@[simp] theorem setPktStatus_pktStatus (m : BitVec 3) (s : State) :
    (setPktStatus m s).pktStatus = s.pktStatus ||| m := rfl
@[simp] theorem setPktStatus_pktCtrl (m : BitVec 3) (s : State) :
    (setPktStatus m s).pktCtrl = s.pktCtrl := rfl
@[simp] theorem setPktStatus_inputs (m : BitVec 3) (s : State) :
    (setPktStatus m s).inputs = s.inputs := rfl
@[simp] theorem setPktStatus_response (m : BitVec 3) (s : State) :
    (setPktStatus m s).response = s.response := rfl

/-! ### reset -/

@[simp] theorem resetState_cfg (s : State) : (resetState s).cfg = s.cfg := rfl
@[simp] theorem resetState_res (s : State) : (resetState s).res = Vector.replicate 16 0 := rfl
@[simp] theorem resetState_errflags (s : State) : (resetState s).errflags = 0 := rfl
@[simp] theorem resetState_bchSr (s : State) : (resetState s).bchSr = 0 := rfl
@[simp] theorem resetState_bufs (s : State) : (resetState s).bufs = Vector.replicate 16 [] := rfl
@[simp] theorem resetState_asmScid (s : State) : (resetState s).asmScid = 0 := rfl
@[simp] theorem resetState_asmVcid (s : State) : (resetState s).asmVcid = 0 := rfl
@[simp] theorem resetState_asmVcfc (s : State) : (resetState s).asmVcfc = 0 := rfl
@[simp] theorem resetState_asmMcfc (s : State) : (resetState s).asmMcfc = 0 := rfl
@[simp] theorem resetState_asmWr (s : State) : (resetState s).asmWr = 0 := rfl
@[simp] theorem resetState_asmFhp (s : State) : (resetState s).asmFhp = 0x7FF := rfl
@[simp] theorem resetState_asmFrame (s : State) :
    (resetState s).asmFrame = List.replicate s.cfg.tmFrameSize 0x00 := rfl
@[simp] theorem resetState_pktCarry (s : State) : (resetState s).pktCarry = [] := rfl
@[simp] theorem resetState_pktTarget (s : State) : (resetState s).pktTarget = 0 := rfl
@[simp] theorem resetState_pktTargetValid (s : State) : (resetState s).pktTargetValid = false := rfl
@[simp] theorem resetState_pktStatus (s : State) : (resetState s).pktStatus = 0 := rfl
@[simp] theorem resetState_pktCtrl (s : State) : (resetState s).pktCtrl = 0 := rfl
@[simp] theorem resetState_inputs (s : State) : (resetState s).inputs = s.inputs := rfl
@[simp] theorem resetState_response (s : State) : (resetState s).response = none := rfl

/-! ### setting the carry (`pkt_parse_target()` after it) -/

@[simp] theorem setCarry_cfg (b : Bytes) (s : State) :
    (setCarry b s).cfg = s.cfg := by
  unfold setCarry; split <;> simp_all
@[simp] theorem setCarry_res (b : Bytes) (s : State) :
    (setCarry b s).res = s.res := by
  unfold setCarry; split <;> simp_all
@[simp] theorem setCarry_errflags (b : Bytes) (s : State) :
    (setCarry b s).errflags = s.errflags := by
  unfold setCarry; split <;> simp_all
@[simp] theorem setCarry_bchSr (b : Bytes) (s : State) :
    (setCarry b s).bchSr = s.bchSr := by
  unfold setCarry; split <;> simp_all
@[simp] theorem setCarry_bufs (b : Bytes) (s : State) :
    (setCarry b s).bufs = s.bufs := by
  unfold setCarry; split <;> simp_all
@[simp] theorem setCarry_asmScid (b : Bytes) (s : State) :
    (setCarry b s).asmScid = s.asmScid := by
  unfold setCarry; split <;> simp_all
@[simp] theorem setCarry_asmVcid (b : Bytes) (s : State) :
    (setCarry b s).asmVcid = s.asmVcid := by
  unfold setCarry; split <;> simp_all
@[simp] theorem setCarry_asmVcfc (b : Bytes) (s : State) :
    (setCarry b s).asmVcfc = s.asmVcfc := by
  unfold setCarry; split <;> simp_all
@[simp] theorem setCarry_asmMcfc (b : Bytes) (s : State) :
    (setCarry b s).asmMcfc = s.asmMcfc := by
  unfold setCarry; split <;> simp_all
@[simp] theorem setCarry_asmWr (b : Bytes) (s : State) :
    (setCarry b s).asmWr = s.asmWr := by
  unfold setCarry; split <;> simp_all
@[simp] theorem setCarry_asmFhp (b : Bytes) (s : State) :
    (setCarry b s).asmFhp = s.asmFhp := by
  unfold setCarry; split <;> simp_all
@[simp] theorem setCarry_asmFrame (b : Bytes) (s : State) :
    (setCarry b s).asmFrame = s.asmFrame := by
  unfold setCarry; split <;> simp_all
@[simp] theorem setCarry_pktCarry (b : Bytes) (s : State) :
    (setCarry b s).pktCarry = b := by
  unfold setCarry; split <;> simp_all
@[simp] theorem setCarry_pktTarget (b : Bytes) (s : State) :
    (setCarry b s).pktTarget = if minPkt ≤ b.length then BitVec.ofNat 17 (declaredSize b) else 0 := by
  unfold setCarry; split <;> simp_all
@[simp] theorem setCarry_pktTargetValid (b : Bytes) (s : State) :
    (setCarry b s).pktTargetValid = decide (minPkt ≤ b.length) := by
  unfold setCarry; split <;> simp_all
@[simp] theorem setCarry_pktStatus (b : Bytes) (s : State) :
    (setCarry b s).pktStatus = s.pktStatus := by
  unfold setCarry; split <;> simp_all
@[simp] theorem setCarry_pktCtrl (b : Bytes) (s : State) :
    (setCarry b s).pktCtrl = s.pktCtrl := by
  unfold setCarry; split <;> simp_all
@[simp] theorem setCarry_inputs (b : Bytes) (s : State) :
    (setCarry b s).inputs = s.inputs := by
  unfold setCarry; split <;> simp_all
@[simp] theorem setCarry_response (b : Bytes) (s : State) :
    (setCarry b s).response = s.response := by
  unfold setCarry; split <;> simp_all

end Sys2Proof.Machine
end

