-- ==== Sys2Proof/Laws/Ops.lean ====
section
/-! SUPPORT. One lemma per shared operation that says all it can do, for proofs to cite instead of
unfolding it. -/

namespace Sys2Proof.Machine

/-! ### completion -/

@[simp] theorem complete_done (s t : State) (v : Value) (p : Bytes) (e : List Event) :
    complete s (.done t v p e) = .next (answerOk t v p e) := rfl

@[simp] theorem complete_raised (s : State) (r : Reason) (a : Value) :
    complete s (.raised r a) = .next (takeFault s r a) := rfl

/-- A command answers a next state in one of two ways. -/
theorem complete_cases {s u : State} {c : Completion} (h : complete s c = .next u) :
    (∃ t v p e, c = .done t v p e ∧ u = answerOk t v p e) ∨
    (∃ r a, c = .raised r a ∧ u = takeFault s r a) := by
  cases c with
  | done t v p e => simp at h; exact .inl ⟨t, v, p, e, rfl, h.symm⟩
  | raised r a => simp at h; exact .inr ⟨r, a, rfl, h.symm⟩

/-- Every completion is a next state (60_exceptions.md R282). -/
theorem complete_next (s : State) (c : Completion) : ∃ u, complete s c = .next u := by
  cases c <;> simp

@[simp] theorem finish_eq (t : State) : finish t = .done t t.res[0] [] [] := rfl

@[simp] theorem finishEvents_eq (t : State) (e : List Event) :
    finishEvents t e = .done t t.res[0] [] e := rfl

@[simp] theorem require_true (r : Reason) (a : Value) (k : Completion) :
    require true r a k = k := rfl

@[simp] theorem require_false (r : Reason) (a : Value) (k : Completion) :
    require false r a k = .raised r a := rfl

theorem require_done {ok : Bool} {r : Reason} {a : Value} {k : Completion} {t : State} {v : Value}
    {p : Bytes} {e : List Event} :
    require ok r a k = .done t v p e ↔ ok = true ∧ k = .done t v p e := by
  cases ok <;> simp

theorem require_raised {ok : Bool} {r r' : Reason} {a a' : Value} {k : Completion} :
    require ok r a k = .raised r' a' ↔
      (ok = false ∧ r = r' ∧ a = a') ∨ (ok = true ∧ k = .raised r' a') := by
  cases ok <;> simp

/-! ### operand checks -/

/-- The buffer check: go on, or `BAD_BUFFER_INDEX`. -/
theorem usesBuf_eq (s : State) (i : BufIx) (k : Completion) :
    usesBuf s i k =
      if i.toNat < s.cfg.nbuf then k else .raised .badBufferIndex (val i.toNat) := by
  unfold usesBuf require; split <;> simp_all

/-- The byte width check: go on with the width, or `BAD_OPERAND`. -/
theorem byteWidth_eq (y : Scalar) (k : Nat → Completion) :
    byteWidth y k =
      if 1 ≤ y.toNat ∧ y.toNat ≤ 8 then k y.toNat else .raised .badOperand (val y.toNat) := by
  unfold byteWidth require maxIntBytes; split <;> simp_all

/-- The bit width check: go on with offset and width, or `BAD_BIT_WIDTH`. -/
theorem bitSpan_eq (s : State) (x y : Scalar) (k : Nat → Nat → Completion) :
    bitSpan s x y k =
      if (1 ≤ y.toNat ∧ y.toNat ≤ 64) ∧ (x.toNat % 8, y.toNat) ∉ s.cfg.unsupportedBits then
        k x.toNat y.toNat
      else .raised .badBitWidth (val y.toNat) := by
  unfold bitSpan require maxBits bitsSupported
  by_cases h1 : 1 ≤ y.toNat ∧ y.toNat ≤ 64 <;>
    by_cases h2 : (x.toNat % 8, y.toNat) ∈ s.cfg.unsupportedBits <;> simp [h1, h2]

/-- The byte value check: go on with the byte, or `BAD_OPERAND`. -/
theorem byteValue_eq (x : Scalar) (k : Byte → Completion) :
    byteValue x k =
      if x.toNat ≤ 255 then k (x.setWidth 8) else .raised .badOperand (val x.toNat) := by
  unfold byteValue require; split <;> simp_all

/-- The header check: go on with the bytes, or `SHORT_HEADER`. -/
theorem headerAt_eq (s : State) (i : BufIx) (x : Scalar) (need : Nat) (k : Bytes → Completion) :
    headerAt s i x need k =
      if need ≤ (s.buf i).length - x.toNat then k (slice (s.buf i) x.toNat need)
      else .raised .shortHeader (val ((s.buf i).length - x.toNat)) := by
  unfold headerAt require; split <;> simp_all

/-! ### memory -/

/-- `MemRead`: the bytes, or `OutOfRange` (20_memory.md R66). -/
theorem memRead_eq (s : State) (i : BufIx) (off n : Nat) (k : Bytes → Completion) :
    memRead s i off n k =
      if off + n ≤ (s.buf i).length then k (slice (s.buf i) off n)
      else .raised .fieldOutOfRange 0 := by
  unfold memRead require; split <;> simp_all

/-- `MemWrite`: the buffer overwritten, or `OutOfRange` (20_memory.md R67). -/
theorem memWrite_eq (s : State) (i : BufIx) (off : Nat) (t : Bytes) (k : State → Completion) :
    memWrite s i off t k =
      if off + t.length ≤ (s.buf i).length then k (s.setBuf i (overwrite (s.buf i) off t))
      else .raised .fieldOutOfRange 0 := by
  unfold memWrite require; split <;> simp_all

/-- `BitRead`: the field, or `OutOfRange` (20_memory.md R68). -/
theorem bitRead_eq (s : State) (i : BufIx) (p w : Nat) (k : Nat → Completion) :
    bitRead s i p w k =
      if (p + w - 1) / 8 < (s.buf i).length then k (bitField (s.buf i) p w)
      else .raised .fieldOutOfRange 0 := by
  unfold bitRead require; split <;> simp_all

/-- `BitWrite`: the buffer with the field set, or `OutOfRange` (20_memory.md R68). -/
theorem bitWrite_eq (s : State) (i : BufIx) (p w v : Nat) (k : State → Completion) :
    bitWrite s i p w v k =
      if (p + w - 1) / 8 < (s.buf i).length then k (s.setBuf i (setBitField (s.buf i) p w v))
      else .raised .fieldOutOfRange 0 := by
  unfold bitWrite require; split <;> simp_all

/-- Replacing a buffer: the new content, or `Capacity` (20_memory.md R74). -/
theorem replaceBuf_eq (s : State) (i : BufIx) (n : Nat) (b : Bytes) (k : State → Completion) :
    replaceBuf s i n b k =
      if n ≤ s.cfg.bufCap then k (s.setBuf i b) else .raised .bufferCapacity (val n) := by
  unfold replaceBuf require; split <;> simp_all

/-! ### result registers -/

/-- What writing results from `RES[n]` on leaves in `RES[j]`. -/
theorem setResFrom_res (s : State) (n : Nat) (vs : List Value) (j : Fin 16) :
    (s.setResFrom n vs).res[j] =
      if n ≤ j.val ∧ j.val < n + vs.length then vs.getD (j.val - n) 0 else s.res[j] := by
  induction vs generalizing s n with
  | nil => simp [State.setResFrom]
  | cons v vs ih =>
    rw [State.setResFrom, ih]
    by_cases h : n + 1 ≤ j.val ∧ j.val < n + 1 + vs.length
    · rw [if_pos h, if_pos (by simp; omega)]
      rw [show j.val - n = (j.val - (n + 1)) + 1 by omega, List.getD_cons_succ]
    · rw [if_neg h]
      by_cases hj : j.val = n
      · have hn : n < 16 := hj ▸ j.isLt
        have : j = ⟨n, hn⟩ := Fin.ext hj
        subst this
        simp [hn]
      · have : ¬ (n ≤ j.val ∧ j.val < n + (v :: vs).length) := by simp; omega
        rw [if_neg this]
        split
        · simp only [State.setRes_res]
          exact Vector.getElem_set_ne _ _ (fun h => hj h.symm)
        · rfl

/-- Writing results changes no field but `res`. -/
theorem setResFrom_frame (s : State) (n : Nat) (vs : List Value) :
    s.setResFrom n vs = { s with res := (s.setResFrom n vs).res } := by
  induction vs generalizing s n with
  | nil => rfl
  | cons v vs ih =>
    rw [State.setResFrom, ih]
    split <;> simp [State.setRes]

/-! ### the Assembler -/

/-- The loop of `asm_put` changes nothing but the open frame, its offset, the pointer and the two
counters. -/
theorem asmFill_frame (fuel : Nat) (q : Bytes) (s : State) :
    let t := (asmFill fuel q s).1
    t = { s with
      asmFrame := t.asmFrame, asmWr := t.asmWr, asmFhp := t.asmFhp,
      asmVcfc := t.asmVcfc, asmMcfc := t.asmMcfc } := by
  induction fuel generalizing q s with
  | zero => rfl
  | succ fuel ih =>
    simp only [asmFill]
    split
    · rfl
    · split
      · simp only []; rw [ih]; simp [asmFinalize, asmOpen, asmCopy]
      · rw [ih]; simp [asmCopy]

/-- `asm_put` changes nothing but the open frame, its offset, the pointer and the two counters. -/
theorem asmPut_frame (q : Bytes) (s : State) :
    let t := (asmPut q s).1
    t = { s with
      asmFrame := t.asmFrame, asmWr := t.asmWr, asmFhp := t.asmFhp,
      asmVcfc := t.asmVcfc, asmMcfc := t.asmMcfc } := by
  simp only [asmPut]
  rw [asmFill_frame]
  split <;> simp

/-- The loop of `ASM.FLUSH` changes nothing but the open frame, its offset, the pointer and the two
counters. -/
theorem asmFlushLoop_frame (fuel : Nat) (s : State) :
    let t := (asmFlushLoop fuel s).1
    t = { s with
      asmFrame := t.asmFrame, asmWr := t.asmWr, asmFhp := t.asmFhp,
      asmVcfc := t.asmVcfc, asmMcfc := t.asmMcfc } := by
  induction fuel generalizing s with
  | zero => rfl
  | succ fuel ih =>
    simp only [asmFlushLoop]
    split
    · rfl
    · simp only []; rw [ih, asmPut_frame]

/-! ### the Packetizer -/

/-- Setting the carry changes nothing but the carry and its target. -/
theorem setCarry_frame (b : Bytes) (s : State) :
    setCarry b s = { s with
      pktCarry := b, pktTarget := (setCarry b s).pktTarget
      pktTargetValid := (setCarry b s).pktTargetValid } := by
  unfold setCarry; split <;> rfl

/-- A discard empties the carry, sets one status bit and emits one event. -/
theorem discardCarry_eq (d : Discard) (s : State) :
    discardCarry d s =
      ({ s with
          pktCarry := [], pktTarget := 0, pktTargetValid := false
          pktStatus := s.pktStatus ||| discardBit d },
       [{ kind := .discard, info := discardCode d, data := s.pktCarry }]) := rfl

/-- `s` with the Packetizer's registers of `u`, `PKT_CTRL` apart. -/
def withPktOf (s u : State) : State :=
  { s with
    pktCarry := u.pktCarry, pktTarget := u.pktTarget, pktTargetValid := u.pktTargetValid,
    pktStatus := u.pktStatus }

/-- Step 1 of `PKT.PUSH` changes nothing but the carry, its target and the status bits. -/
theorem pktLead_frame (cls : Nat) (lead : Bytes) (s : State) :
    (pktLead cls lead s).1 = withPktOf s (pktLead cls lead s).1 := by
  have hc : ∀ (b : Bytes) (u : State), u = withPktOf s u →
      setCarry b u = withPktOf s (setCarry b u) := by
    intro b u hu
    rw [setCarry_frame b u, hu]; rfl
  have hd : ∀ (d : Discard) (u : State), u = withPktOf s u →
      (discardCarry d u).1 = withPktOf s (discardCarry d u).1 := by
    intro d u hu
    rw [hu]; rfl
  simp only [pktLead]
  generalize hu : (if s.pktCarry = [] then setPktStatus orphanBit s else s) = u
  have h0 : u = withPktOf s u := by rw [← hu]; split <;> rfl
  have h1 := hc (s.pktCarry ++ lead) u h0
  by_cases hl : lead = []
  · rw [if_pos hl]
    split
    · exact hd _ s rfl
    · rfl
  · rw [if_neg hl]
    split
    · exact hc [] _ h1
    · split
      · exact hd _ _ h1
      · split
        · exact hd _ _ h1
        · exact h1

/-- The three steps of `PKT.PUSH` change nothing but the carry, its target and the status bits. -/
theorem pktAccept_frame (cls : Nat) (q : Parts) (s : State) :
    (pktAccept cls q s).1 = withPktOf s (pktAccept cls q s).1 := by
  have h := pktLead_frame cls q.lead s
  simp only [pktAccept, pktTrail]
  split
  · rfl
  · split
    · exact h
    · rw [setCarry_frame, h]; rfl

end Sys2Proof.Machine
end

