-- ==== Sys2Proof/Laws/Memory.lean ====
section
/-! SUPPORT. The laws of memory: a read after a write, what a write leaves alone, and that every memory
operation keeps the form of the buffer file (`Memory.wf`). -/

namespace Sys2Proof.Machine

/-! ### read after write -/

@[simp] theorem buf_setBuf_self (s : State) (i : BufIx) (b : Bytes) : (s.setBuf i b).buf i = b := by
  simp [State.buf, State.setBuf]

theorem buf_setBuf_ne (s : State) (i j : BufIx) (b : Bytes) (h : j ≠ i) :
    (s.setBuf i b).buf j = s.buf j := by
  have : i.toNat ≠ j.toNat := fun e => h (BitVec.eq_of_toNat_eq e.symm)
  simp [State.buf, State.setBuf, Vector.getElem_set_ne, this]

theorem buf_setBuf (s : State) (i j : BufIx) (b : Bytes) :
    (s.setBuf i b).buf j = if j = i then b else s.buf j := by
  split
  · next h => subst h; simp
  · next h => exact buf_setBuf_ne s i j b h

theorem byteAt_setBuf_ne (s : State) (i j : BufIx) (b : Bytes) (k : Nat) (h : j ≠ i) :
    (s.setBuf i b).byteAt j k = s.byteAt j k := by
  simp [State.byteAt, buf_setBuf_ne s i j b h]

/-- One byte after `MemWrite`: the byte written, or the one before (20_memory.md R67). -/
theorem byteAt_write (s : State) (i j : BufIx) (off k : Nat) (t : Bytes)
    (h : off + t.length ≤ (s.buf i).length) (hi : i.toNat < s.cfg.nbuf) :
    (s.setBuf i (overwrite (s.buf i) off t)).byteAt j k =
      if j = i ∧ off ≤ k ∧ k < off + t.length then t[k - off]? else s.byteAt j k := by
  by_cases hj : j = i
  · subst hj
    simp [State.byteAt, hi, overwrite_getElem? _ _ _ _ h]
  · rw [byteAt_setBuf_ne _ _ _ _ _ hj, if_neg (fun hh => hj hh.1)]

/-- A state with the same buffers and parameters reads the same bytes. -/
theorem byteAt_congr {s t : State} (hb : t.bufs = s.bufs) (hc : t.cfg = s.cfg) (i : BufIx) (k : Nat) :
    t.byteAt i k = s.byteAt i k := by
  simp [State.byteAt, State.buf, hb, hc]

/-! ### the form of the buffer file -/

/-- Writing a buffer that exists keeps the form, where the new content is within `BUF_CAP`. -/
theorem wf_set (c : Config) (m : Vector Bytes 16) (i : BufIx) (b : Bytes) (hm : Memory.wf c m)
    (hi : i.toNat < c.nbuf) (hb : b.length ≤ c.bufCap) : Memory.wf c (m.set i.toNat b) := by
  intro j
  have hj := hm j
  by_cases h : j.val = i.toNat
  · have e : (m.set i.toNat b)[j] = b := by
      rw [Fin.getElem_fin]; simp [h]
    rw [e, h, if_pos hi]; exact hb
  · have e : (m.set i.toNat b)[j] = m[j] := by
      rw [Fin.getElem_fin, Fin.getElem_fin]
      exact Vector.getElem_set_ne _ _ (fun hh => h hh.symm)
    rw [e]; exact hj

/-- `B[i] <- b` keeps the form of the buffer file. -/
theorem wf_setBuf (s : State) (i : BufIx) (b : Bytes) (hm : Memory.wf s.cfg s.bufs)
    (hi : i.toNat < s.cfg.nbuf) (hb : b.length ≤ s.cfg.bufCap) :
    Memory.wf (s.setBuf i b).cfg (s.setBuf i b).bufs := wf_set _ _ _ _ hm hi hb

/-- The length of a buffer that exists. -/
theorem wf_buf_length (s : State) (i : BufIx) (hm : Memory.wf s.cfg s.bufs)
    (hi : i.toNat < s.cfg.nbuf) : (s.buf i).length ≤ s.cfg.bufCap := by
  have := hm ⟨i.toNat, i.isLt⟩
  rw [if_pos hi] at this; exact this

/-- `MemWrite` keeps the form of the buffer file. -/
theorem wf_memWrite (s : State) (i : BufIx) (off : Nat) (t : Bytes) (hm : Memory.wf s.cfg s.bufs)
    (hi : i.toNat < s.cfg.nbuf) (h : off + t.length ≤ (s.buf i).length) :
    Memory.wf s.cfg (s.setBuf i (overwrite (s.buf i) off t)).bufs :=
  wf_set _ _ _ _ hm hi (by rw [overwrite_length _ _ _ h]; exact wf_buf_length s i hm hi)

/-- `BitWrite` keeps the form of the buffer file. -/
theorem wf_bitWrite (s : State) (i : BufIx) (p w v : Nat) (hm : Memory.wf s.cfg s.bufs)
    (hi : i.toNat < s.cfg.nbuf) :
    Memory.wf s.cfg (s.setBuf i (setBitField (s.buf i) p w v)).bufs :=
  wf_set _ _ _ _ hm hi (by rw [setBitField_length]; exact wf_buf_length s i hm hi)

/-- The buffer file of the reset state has the form. -/
theorem wf_resetFor (c : Config) : Memory.wf (State.resetFor c).cfg (State.resetFor c).bufs := by
  intro i
  have : (State.resetFor c).bufs[i] = [] := by simp [State.resetFor]
  rw [this]; split <;> simp

theorem wf_reset : Memory.wf State.reset.cfg State.reset.bufs := wf_resetFor _

/-- Reset keeps the form of the buffer file. -/
theorem wf_resetState (s : State) : Memory.wf (resetState s).cfg (resetState s).bufs :=
  wf_resetFor s.cfg

end Sys2Proof.Machine
end

