-- ==== Sys2Proof/Laws/Invariant.lean ====
section
/-! SUPPORT. A check that decides the invariant of a concrete state. -/

namespace Sys2Proof.Machine

/-- The clauses of `State.Inv` as one Boolean; the bytes of `ASM_FRAME` are checked where there are any. -/
def State.invCheck (s : State) : Bool :=
  configValid s.cfg && decide (s.asmWr.toNat < dfLen s.cfg) &&
  decide (s.asmFhp.toNat = 0x7FF ∨ s.asmFhp.toNat < s.asmWr.toNat) &&
  decide (s.asmWr = 0 → s.asmFhp.toNat = 0x7FF) &&
  decide (s.asmFrame.length = s.cfg.tmFrameSize) &&
  (List.range s.asmFrame.length).all (fun k =>
    !decide (k < 6 ∨ 6 + s.asmWr.toNat ≤ k) || decide (s.asmFrame.getD k 0 = 0)) &&
  decide (s.pktCarry.length ≤ 65542) &&
  decide (s.pktTargetValid = true ↔ 7 ≤ s.pktCarry.length) &&
  decide (s.pktTargetValid = true →
    s.pktTarget.toNat = be (slice s.pktCarry 4 2) + 7 ∧ s.pktCarry.length < s.pktTarget.toNat) &&
  decide (s.pktTargetValid = false → s.pktTarget = 0) &&
  decide (Memory.wf s.cfg s.bufs)

/-- A state that passes the check meets the invariant. -/
theorem inv_of_invCheck {s : State} (h : s.invCheck = true) : s.Inv := by
  simp only [State.invCheck, Bool.and_eq_true, decide_eq_true_eq] at h
  obtain ⟨⟨⟨⟨⟨⟨⟨⟨⟨⟨h1, h2⟩, h3⟩, h4⟩, h5⟩, h6⟩, h7⟩, h8⟩, h9⟩, h10⟩, h11⟩ := h
  refine ⟨h1, h2, h3, h4, h5, ?_, h7, h8, h9, h10, h11⟩
  intro k hk
  by_cases hl : k < s.asmFrame.length
  · have := List.all_eq_true.mp h6 k (List.mem_range.mpr hl)
    simpa [hk] using this
  · simp [List.getD_eq_getElem?_getD, List.getElem?_eq_none (Nat.le_of_not_lt hl)]

end Sys2Proof.Machine
end

