-- ==== Sys2Proof/Machine/Pseudo.lean ====
section
/-! DEFINITION. The pseudo-commands (30_encoding.md R103), each as the command sequence that realises
it, and the assembler text of a command (R102). The host issues such a sequence through the
command port; nothing in the block expands it. -/

namespace Sys2Proof.Machine

/-- The address of `BCH_SR` (10_state.md R26). -/
def bchSrAddr : Scalar := 0x0011

/-- `encodeStart()` (30_encoding.md R103). -/
def pseudoEncodeStart : List Instr := [.bchStart]

/-- `encodeStep(s, b)` (30_encoding.md R103). -/
def pseudoEncodeStep (s : BitVec 7) (b : Byte) : List Instr :=
  [.regWr bchSrAddr (s.setWidth 64), .bchStep (b.setWidth 32)]

/-- `encodeStop(s)` (30_encoding.md R103). -/
def pseudoEncodeStop (s : BitVec 7) : List Instr := [.regWr bchSrAddr (s.setWidth 64), .bchStop]

/-- `encodeCltu(f)`, `f` in `B[bs]` (30_encoding.md R103). -/
def pseudoEncodeCltu (bd bs : BufIx) : List Instr := [.cltuEnc bd bs]

/-- `decodeCltu(c)`, `c` in `B[bs]` (30_encoding.md R103). -/
def pseudoDecodeCltu (bd bs : BufIx) : List Instr := [.cltuDec bd bs]

/-- `checkCltu(c)`, `c` in `B[bs]` (30_encoding.md R103). -/
def pseudoCheckCltu (bs : BufIx) : List Instr := [.cltuChk bs]

/-- `crc16(b)` over a whole buffer of `len` bytes; `len` is what `BU.LEN` answered
(30_encoding.md R103). -/
def pseudoCrc16 (bs : BufIx) (len : Scalar) : List Instr := [.buLen bs, .crcCalc bs 0 len]

/-- `setChecksum` (30_encoding.md R103). -/
def pseudoSetChecksum (bd : BufIx) : List Instr := [.crcSet bd]

/-- `checkChecksum` (30_encoding.md R103). -/
def pseudoCheckChecksum (bs : BufIx) : List Instr := [.crcChk bs]

/-- `len()` (30_encoding.md R103). -/
def pseudoLen (bs : BufIx) : List Instr := [.buLen bs]

/-- `setLen(n)` (30_encoding.md R103). -/
def pseudoSetLen (bd : BufIx) (n : Scalar) : List Instr := [.buSetlen bd n]

/-- `append(bytes)` (30_encoding.md R103). -/
def pseudoAppend (bd : BufIx) (b : Bytes) : List Instr := [.buAppend bd b]

/-- `getFloat(off, w)`, `w` 4 or 8: the IEEE bit pattern (30_encoding.md R103, 40_binaryunit.md R147). -/
def pseudoGetFloat (bs : BufIx) (off w : Scalar) : List Instr := [.buGetu bs off w]

/-- `setFloat` (30_encoding.md R103, 40_binaryunit.md R147). -/
def pseudoSetFloat (bd : BufIx) (off w : Scalar) (v : Value) : List Instr := [.buSetu bd off w v]

/-- `getString(off, w)` (30_encoding.md R103). -/
def pseudoGetString (bs : BufIx) (off w : Scalar) : List Instr := [.buGetbytes bs off w]

/-- `setString`, the payload already padded by the host (30_encoding.md R103). -/
def pseudoSetString (bd : BufIx) (off : Scalar) (b : Bytes) : List Instr := [.buSetbytes bd off b]

/-- `getPackets()` (30_encoding.md R103). -/
def pseudoGetPackets (bs : BufIx) : List Instr := [.tmfSplit bs]

/-- `pushTMpacket(p)` (30_encoding.md R103). -/
def pseudoPushTmPacket (bs : BufIx) : List Instr := [.asmPush bs]

/-- `pushTMframe(f)` (30_encoding.md R103). -/
def pseudoPushTmFrame (bs : BufIx) : List Instr := [.pktPush bs]

/-- `unit.fieldName` for the field `(offset, width)` of a header that starts at byte `start` of `B[bs]`
(30_encoding.md R103, 40_binaryunit.md R148). -/
def pseudoField (bs : BufIx) (start : Nat) (field : Nat × Nat) : List Instr :=
  [.buGetbits bs (BitVec.ofNat 32 (8 * start + field.1)) (BitVec.ofNat 32 field.2)]

/-- A number in hexadecimal, `0x` before it (00_scope.md R12). -/
def hexText (n : Nat) : String := "0x" ++ String.ofList ((Nat.toDigits 16 n).map Char.toUpper)

/-- A byte as two hexadecimal digits. -/
def byteText (b : Byte) : String :=
  String.ofList ((Nat.toDigits 16 (b.toNat / 16) ++ Nat.toDigits 16 (b.toNat % 16)).map Char.toUpper)

/-- A buffer operand, `b<index>` (30_encoding.md R102). -/
def bufText (i : BufIx) : String := "b" ++ toString i.toNat

/-- A payload: hexadecimal bytes in braces, characters 123 and 125 (30_encoding.md R102). -/
def payloadText (p : Bytes) : String :=
  String.singleton (Char.ofNat 123) ++ String.intercalate " " (p.map byteText) ++
    String.singleton (Char.ofNat 125)

/-- The name of a register, which may stand for its address (10_state.md R26, 30_encoding.md R102). -/
def regName : Reg → String
  | .res i => "RES[" ++ toString i.val ++ "]"
  | .errflags => "ERRFLAGS"
  | .bchSr => "BCH_SR"
  | .asmScid => "ASM_SCID"
  | .asmVcid => "ASM_VCID"
  | .asmVcfc => "ASM_VCFC"
  | .asmMcfc => "ASM_MCFC"
  | .asmWr => "ASM_WR"
  | .asmFhp => "ASM_FHP"
  | .pktCarryLen => "PKT_CARRY_LEN"
  | .pktTarget => "PKT_TARGET"
  | .pktStatus => "PKT_STATUS"
  | .pktCtrl => "PKT_CTRL"

/-- A register operand: its name, or the address where there is none (30_encoding.md R102). -/
def regText (x : Scalar) : String :=
  match regAt x with
  | some r => regName r
  | none => hexText x.toNat

/-- A scalar operand in decimal (00_scope.md R12). -/
def numText (x : Scalar) : String := toString x.toNat

/-- The mnemonic and the operands a command uses, in the order `bd`, `bs`, `x`, `y`, `v`, payload
(30_encoding.md R94, R102). -/
def asmParts : Instr → String × List String
  | .nop => ("NOP", [])
  | .regRd x => ("REG.RD", [regText x])
  | .regWr x v => ("REG.WR", [regText x, hexText v.toNat])
  | .sreset => ("SRESET", [])
  | .buNew bd x => ("BU.NEW", [bufText bd, numText x])
  | .buLoad bd p => ("BU.LOAD", [bufText bd, payloadText p])
  | .buLen bs => ("BU.LEN", [bufText bs])
  | .buSetlen bd x => ("BU.SETLEN", [bufText bd, numText x])
  | .buAppend bd p => ("BU.APPEND", [bufText bd, payloadText p])
  | .buGetbits bs x y => ("BU.GETBITS", [bufText bs, numText x, numText y])
  | .buSetbits bd x y v => ("BU.SETBITS", [bufText bd, numText x, numText y, hexText v.toNat])
  | .buGetu bs x y => ("BU.GETU", [bufText bs, numText x, numText y])
  | .buGets bs x y => ("BU.GETS", [bufText bs, numText x, numText y])
  | .buSetu bd x y v => ("BU.SETU", [bufText bd, numText x, numText y, hexText v.toNat])
  | .buSets bd x y v => ("BU.SETS", [bufText bd, numText x, numText y, hexText v.toNat])
  | .buGetbytes bs x y => ("BU.GETBYTES", [bufText bs, numText x, numText y])
  | .buSetbytes bd x p => ("BU.SETBYTES", [bufText bd, numText x, payloadText p])
  | .bchStart => ("BCH.START", [])
  | .bchStep x => ("BCH.STEP", [hexText x.toNat])
  | .bchStop => ("BCH.STOP", [])
  | .cltuEnc bd bs => ("CLTU.ENC", [bufText bd, bufText bs])
  | .cltuDec bd bs => ("CLTU.DEC", [bufText bd, bufText bs])
  | .cltuChk bs => ("CLTU.CHK", [bufText bs])
  | .crcCalc bs x y => ("CRC.CALC", [bufText bs, numText x, numText y])
  | .crcSet bd => ("CRC.SET", [bufText bd])
  | .crcChk bs => ("CRC.CHK", [bufText bs])
  | .hdrTmf bs x => ("HDR.TMF", [bufText bs, numText x])
  | .hdrTcf bs x => ("HDR.TCF", [bufText bs, numText x])
  | .hdrPkt bs x => ("HDR.PKT", [bufText bs, numText x])
  | .hdrSeg bs x => ("HDR.SEG", [bufText bs, numText x])
  | .tmfSplit bs => ("TMF.SPLIT", [bufText bs])
  | .asmPush bs => ("ASM.PUSH", [bufText bs])
  | .asmFlush => ("ASM.FLUSH", [])
  | .asmInit => ("ASM.INIT", [])
  | .pktPush bs => ("PKT.PUSH", [bufText bs])
  | .pktClear => ("PKT.CLEAR", [])

/-- The assembler text of a command (30_encoding.md R102). -/
def asmText (i : Instr) : String :=
  let p := asmParts i
  if p.2 = [] then p.1 else p.1 ++ " " ++ String.intercalate ", " p.2

end Sys2Proof.Machine
end

