-- ==== Sys2Proof/Tests/Slice0.lean ====
section
/-! SUPPORT. Tests: well-formedness, decoding, one or two single commands for each instruction with the
values of the spec's own examples, and a witness for the hypotheses of every statement. -/

set_option maxRecDepth 20000

namespace Sys2Proof.Tests

open Sys2Proof Sys2Proof.Machine

/-! ### helpers -/

/-- What a projection reads in the next state of an outcome. -/
def after {α : Type} (o : Outcome) (f : State → α) : Option α :=
  match o with
  | .next t => some (f t)
  | _ => none

/-- Status, reason and value of the response of an outcome. -/
def said (o : Outcome) : Option (Status × Reason × Nat) :=
  match o with
  | .next t => t.response.map fun r => (r.status, r.reason, r.value.toNat)
  | _ => none

/-- The reset state with one buffer loaded. -/
def held (i : BufIx) (b : Bytes) : State := State.reset.setBuf i b

/-- The first `n` result registers, as numbers. -/
def firstRes (n : Nat) (t : State) : List Nat := (t.res.toList.take n).map BitVec.toNat

/-! ### well-formedness: each check refuses an ill-formed term -/

/-- A payload of `n` bytes does not fit from 2^32 bytes on (30_encoding.md R90). -/
theorem payload_too_long (n : Nat) (h : 4294967296 ≤ n) :
    payloadFits (List.replicate n (0 : Byte)) = false := by
  simp [payloadFits, h]

theorem test_illformed_load (n : Nat) (h : 4294967296 ≤ n) :
    (Instr.buLoad 0 (List.replicate n 0)).wellFormed = false := payload_too_long n h

theorem test_illformed_append (n : Nat) (h : 4294967296 ≤ n) :
    (Instr.buAppend 0 (List.replicate n 0)).wellFormed = false := payload_too_long n h

theorem test_illformed_setbytes (n : Nat) (h : 4294967296 ≤ n) :
    (Instr.buSetbytes 0 0 (List.replicate n 0)).wellFormed = false := payload_too_long n h

theorem test_wellformed : (Instr.buLoad 15 [1, 2]).wellFormed = true ∧
    (Instr.buGetu 15 0xFFFFFFFF 0).wellFormed = true := by decide

/-! ### decoding: one word of every row, 40 hexadecimal digits in the order of 30_encoding.md R92, as
95_test_vectors.md and 96_test_vectors_frames.md write them or written out from R91 and R94 -/

theorem test_decode_sys :
    decode 0x00FF0000FFFFFFFFFFFFFFFFFFFFFFFFFFFFFFFF [] = .ok .nop ∧
    decode 0x0100000000000025000000000000000000000000 [] = .ok (.regRd 0x25) ∧
    decode 0x020000000000002000000000000000000000FFFF [] = .ok (.regWr 0x20 0xFFFF) ∧
    decode 0x0300000000000000000000000000000000000000 [] = .ok .sreset := by decide

theorem test_decode_bu_length :
    decode 0x1070000000000006000000000000000000000000 [] = .ok (.buNew 7 6) ∧
    decode 0x1110000000000000000000000000000000000000 [0xEB, 0x90] = .ok (.buLoad 1 [0xEB, 0x90]) ∧
    decode 0x1204000000000000000000000000000000000000 [] = .ok (.buLen 4) ∧
    decode 0x1390000000000005000000000000000000000000 [] = .ok (.buSetlen 9 5) ∧
    decode 0x1420000000000000000000000000000000000000 [0x00] = .ok (.buAppend 2 [0x00]) := by decide

theorem test_decode_bu_fields :
    decode 0x15010000000000250000000B0000000000000000 [] = .ok (.buGetbits 1 37 11) ∧
    decode 0x16200000000000250000000B00000000000007FF [] = .ok (.buSetbits 2 37 11 0x7FF) ∧
    decode 0x1703000000000001000000020000000000000000 [] = .ok (.buGetu 3 1 2) ∧
    decode 0x1802000000000000000000010000000000000000 [] = .ok (.buGets 2 0 1) ∧
    decode 0x193000000000000100000002000000000000ABCD [] = .ok (.buSetu 3 1 2 0xABCD) ∧
    decode 0x1A3000000000000200000002FFFFFFFFFFFFFFFE [] = .ok (.buSets 3 2 2 0xFFFFFFFFFFFFFFFE) ∧
    decode 0x1B05000000000001000000020000000000000000 [] = .ok (.buGetbytes 5 1 2) ∧
    decode 0x1C30000000000007000000000000000000000000 [0xAA] = .ok (.buSetbytes 3 7 [0xAA]) := by
  decide

theorem test_decode_bch :
    decode 0x2099000000000007000000070000000000000007 [] = .ok .bchStart ∧
    decode 0x2100000000000001000000000000000000000000 [] = .ok (.bchStep 1) ∧
    decode 0x2200000000000000000000000000000000000000 [] = .ok .bchStop := by decide

theorem test_decode_cltu :
    decode 0x3056000000000000000000000000000000000000 [] = .ok (.cltuEnc 5 6) ∧
    decode 0x3121000000000000000000000000000000000000 [] = .ok (.cltuDec 2 1) ∧
    decode 0x3201000000000000000000000000000000000000 [] = .ok (.cltuChk 1) := by decide

theorem test_decode_crc :
    decode 0x4003000000000002000000090000000000000000 [] = .ok (.crcCalc 3 2 9) ∧
    decode 0x4130000000000000000000000000000000000000 [] = .ok (.crcSet 3) ∧
    decode 0x4203000000000000000000000000000000000000 [] = .ok (.crcChk 3) := by decide

theorem test_decode_hdr :
    decode 0x5004000000000001000000000000000000000000 [] = .ok (.hdrTmf 4 1) ∧
    decode 0x5101000000000001000000000000000000000000 [] = .ok (.hdrTcf 1 1) ∧
    decode 0x5202000000000080000000000000000000000000 [] = .ok (.hdrPkt 2 128) ∧
    decode 0x5303000080000000000000000000000000000000 [] = .ok (.hdrSeg 3 0x80000000) ∧
    decode 0x5408000000000000000000000000000000000000 [] = .ok (.tmfSplit 8) := by decide

theorem test_decode_asm_pkt :
    decode 0x600F000000000000000000000000000000000000 [] = .ok (.asmPush 15) ∧
    decode 0x6100000000000000000000000000000000000000 [] = .ok .asmFlush ∧
    decode 0x6200000000000000000000000000000000000000 [] = .ok .asmInit ∧
    decode 0x7004000000000000000000000000000000000000 [] = .ok (.pktPush 4) ∧
    decode 0x7100000000000000000000000000000000000000 [] = .ok .pktClear := by decide

/-- Words that are no command, by name (30_encoding.md R95, R96; 95_test_vectors.md). -/
theorem test_decode_refuses :
    decode 0x0400000000000000000000000000000000000000 [] = .error (.undefinedOpcode 0x04) ∧
    decode 0x0300800000000000000000000000000000000000 [] = .error (.reservedNonzero 0x8000) ∧
    decode 0xFF00000100000000000000000000000000000000 [] = .error (.reservedNonzero 1) ∧
    decodeBytes [0x00] [] = .error (.notTwentyBytes 1) := by decide

/-- The bytes of a word, in order (30_encoding.md R92). -/
theorem test_encode_bytes :
    encodeBytes (.buSetu 2 4 2 0xF3) =
      [0x19, 0x20, 0, 0, 0, 0, 0, 4, 0, 0, 0, 2, 0, 0, 0, 0, 0, 0, 0, 0xF3] := by decide

/-! ### SYS (the examples of 47_system.md) -/

theorem test_nop : said (exec .nop (held 0 [])) = some (.ok, .none, 0) := by decide

theorem test_regRd_fhp : said (exec (.regRd 0x25) State.reset) = some (.ok, .none, 0x7FF) := by decide

theorem test_regRd_bad :
    said (exec (.regRd 0x10025) State.reset) = some (.illegalCommand, .badRegAddr, 0x10025) := by decide

theorem test_regWr_scid :
    after (exec (.regWr 0x20 0xFFFF) State.reset) State.asmScid = some 0x3FF := by decide

theorem test_regWr_w1c :
    after (exec (.regWr 0x10 0x01) { State.reset with errflags := 0b010001 }) State.errflags =
      some 0b010000 := by decide

theorem test_sreset : exec .sreset { held 3 [7] with bchSr := 5, asmWr := 3, errflags := 9 } =
    .next (answerOk State.reset 0 [] []) := rfl

/-! ### BU (the examples of 40_binaryunit.md) -/

theorem test_buNew :
    after (exec (.buNew 0 6) (held 0 [1])) (fun t => (t.buf 0, firstRes 1 t)) =
      some ([0, 0, 0, 0, 0, 0], [6]) := by decide

theorem test_buNew_capacity :
    said (exec (.buNew 0 65543) State.reset) = some (.capacity, .bufferCapacity, 65543) := by decide

theorem test_buLoad :
    after (exec (.buLoad 1 [0xEB, 0x90]) State.reset) (fun t => (t.buf 1, firstRes 1 t)) =
      some ([0xEB, 0x90], [2]) := by decide

theorem test_buLen : said (exec (.buLen 1) (held 1 [0xEB, 0x90])) = some (.ok, .none, 2) := by decide

theorem test_buLen_index :
    said (exec (.buLen 4) State.reset) = some (.illegalCommand, .badBufferIndex, 4) := by decide

theorem test_buSetlen_grow :
    after (exec (.buSetlen 0 5) (held 0 [0x12, 0x34, 0x56])) (fun t => t.buf 0) =
      some [0x12, 0x34, 0x56, 0, 0] := by decide

theorem test_buSetlen_cut :
    after (exec (.buSetlen 0 1) (held 0 [0x12, 0x34, 0x56, 0, 0])) (fun t => t.buf 0) =
      some [0x12] := by decide

theorem test_buAppend :
    after (exec (.buAppend 0 [0x34, 0x56]) (held 0 [0x12])) (fun t => (t.buf 0, firstRes 1 t)) =
      some ([0x12, 0x34, 0x56], [3]) := by decide

theorem test_buGetbits :
    said (exec (.buGetbits 0 13 11) (held 0 [0x12, 0x34, 0x56, 0x78])) =
      some (.ok, .none, 0x456) := by decide

theorem test_buGetbits_empty :
    said (exec (.buGetbits 0 0 0) State.reset) = some (.invalidWidth, .badBitWidth, 0) := by decide

theorem test_buSetbits :
    after (exec (.buSetbits 0 37 11 0x7FF) (held 0 [0, 0, 0, 0, 0, 0])) (fun t => t.buf 0) =
      some [0, 0, 0, 0, 0x07, 0xFF] := by decide

theorem test_buSetbits_inside :
    after (exec (.buSetbits 0 35 2 3) (held 0 [0, 0, 0, 0, 0x07, 0xFF])) (fun t => t.buf 0) =
      some [0, 0, 0, 0, 0x1F, 0xFF] := by decide

theorem test_buGetu :
    said (exec (.buGetu 0 1 2) (held 0 [0x12, 0x34, 0x56, 0x78])) = some (.ok, .none, 0x3456) := by
  decide

theorem test_buGetu_range :
    said (exec (.buGetu 0 3 2) (held 0 [0x12, 0x34, 0x56, 0x78])) =
      some (.outOfRange, .fieldOutOfRange, 0) := by decide

theorem test_buGets_byte :
    said (exec (.buGets 0 0 1) (held 0 [0xFE, 0x80, 0x00])) =
      some (.ok, .none, 0xFFFFFFFFFFFFFFFE) := by decide

theorem test_buGets_pair :
    said (exec (.buGets 0 1 2) (held 0 [0xFE, 0x80, 0x00])) =
      some (.ok, .none, 0xFFFFFFFFFFFF8000) := by decide

theorem test_buSetu :
    after (exec (.buSetu 0 1 2 0xABCD) (held 0 [0, 0, 0, 0])) (fun t => (t.buf 0, firstRes 1 t)) =
      some ([0, 0xAB, 0xCD, 0], [0]) := by decide

theorem test_buSets :
    after (exec (.buSets 0 0 2 0xFFFFFFFFFFFFFFFE) (held 0 [0, 0])) (fun t => t.buf 0) =
      some [0xFF, 0xFE] := by decide

theorem test_buGetbytes :
    after (exec (.buGetbytes 0 1 2) (held 0 [0x12, 0x34, 0x56, 0x78]))
      (fun t => t.response.map Response.payload) = some (some [0x34, 0x56]) := by decide

theorem test_buGetbytes_end :
    said (exec (.buGetbytes 0 5 0) (held 0 [0x12, 0x34, 0x56, 0x78])) =
      some (.outOfRange, .fieldOutOfRange, 0) := by decide

theorem test_buSetbytes :
    after (exec (.buSetbytes 0 2 [0xAA, 0xBB]) (held 0 [0, 0, 0, 0])) (fun t => t.buf 0) =
      some [0, 0, 0xAA, 0xBB] := by decide

theorem test_buSetbytes_range :
    said (exec (.buSetbytes 0 3 [0xAA, 0xBB]) (held 0 [0, 0, 0, 0])) =
      some (.outOfRange, .fieldOutOfRange, 0) := by decide

/-! ### BCH (the examples of 41_bch.md) -/

theorem test_bchStart :
    after (exec .bchStart { State.reset with bchSr := 0x55 }) State.bchSr = some 0 := by decide

theorem test_bchStep :
    said (exec (.bchStep 2) { State.reset with bchSr := 0x45 }) = some (.ok, .none, 0x24) := by decide

theorem test_bchStep_operand :
    said (exec (.bchStep 256) State.reset) = some (.illegalCommand, .badOperand, 256) := by decide

theorem test_bchStop :
    said (exec .bchStop { State.reset with bchSr := 0x47 }) = some (.ok, .none, 0x70) := by decide

theorem test_bchCheck :
    bchCheck [1, 2, 3, 4, 5, 6, 7] = 0x70 ∧ bchCheck [0x80, 0, 0, 0, 0, 0, 0] = 0x3A ∧
    bchCheck (List.replicate 7 0xFF) = 0x86 := by decide

/-! ### CLTU (the examples of 42_cltu.md) -/

/-- The 18-byte CLTU of 42_cltu.md R177. -/
def cltu18 : Bytes :=
  [0xEB, 0x90, 1, 2, 3, 4, 5, 6, 7, 0x70, 0x55, 0x55, 0x55, 0x55, 0x55, 0x55, 0x55, 0x55]

theorem test_cltuEnc :
    after (exec (.cltuEnc 1 0) (held 0 [1, 2, 3, 4, 5, 6, 7])) (fun t => (t.buf 1, firstRes 1 t)) =
      some (cltu18, [18]) := by decide

theorem test_cltuEnc_empty :
    after (exec (.cltuEnc 0 0) State.reset) (fun t => (t.buf 0, firstRes 1 t)) =
      some ([0xEB, 0x90] ++ List.replicate 8 0x55, [10]) := by decide

theorem test_cltuDec :
    after (exec (.cltuDec 2 1) (held 1 cltu18)) (fun t => (t.buf 2, firstRes 1 t)) =
      some ([1, 2, 3, 4, 5, 6, 7], [7]) := by decide

theorem test_cltuDec_mismatch :
    said (exec (.cltuDec 2 1) (held 1 (cltu18.set 9 0x71))) =
      some (.integrityFailure, .bchMismatch, 0) := by decide

theorem test_cltuChk : said (exec (.cltuChk 1) (held 1 cltu18)) = some (.ok, .none, 1) := by decide

theorem test_cltuChk_length :
    said (exec (.cltuChk 1) (held 1 (cltu18.take 17))) =
      some (.malformedInput, .cltuBadLength, 17) := by decide

/-! ### CRC (the examples of 43_crc16.md) -/

/-- The ASCII digits "123456789". -/
def digits : Bytes := [0x31, 0x32, 0x33, 0x34, 0x35, 0x36, 0x37, 0x38, 0x39]

theorem test_crcCalc : said (exec (.crcCalc 0 0 9) (held 0 digits)) = some (.ok, .none, 0x29B1) := by
  decide

theorem test_crcCalc_end :
    said (exec (.crcCalc 0 9 0) (held 0 digits)) = some (.ok, .none, 0xFFFF) := by decide

theorem test_crcSet :
    after (exec (.crcSet 0) (held 0 (digits ++ [0, 0]))) (fun t => (t.buf 0, firstRes 1 t)) =
      some (digits ++ [0x29, 0xB1], [0x29B1]) := by decide

theorem test_crcChk :
    said (exec (.crcChk 0) (held 0 (digits ++ [0x29, 0xB1]))) = some (.ok, .none, 0x29B1) := by decide

theorem test_crcChk_mismatch :
    said (exec (.crcChk 0) (held 0 (digits ++ [0x29, 0xB0]))) =
      some (.integrityFailure, .crcMismatch, 0x29B1) := by decide

/-! ### HDR (the examples of 44_frame_packet.md) -/

theorem test_hdrTmf :
    after (exec (.hdrTmf 0 0) (held 0 [0x12, 0x34, 0xA5, 0x5A, 0x18, 0x0A])) (firstRes 12) =
      some [0, 0x123, 2, 0, 0xA5, 0x5A, 0, 0, 0, 3, 0x00A, 0] := by decide

theorem test_hdrTmf_short :
    said (exec (.hdrTmf 0 1) (held 0 [0x12, 0x34, 0xA5, 0x5A, 0x18, 0x0A])) =
      some (.malformedInput, .shortHeader, 5) := by decide

theorem test_hdrTcf :
    after (exec (.hdrTcf 0 0) (held 0 [0x20, 0x03, 0x00, 0x09, 0x00])) (firstRes 9) =
      some [0, 1, 0, 0, 3, 0, 9, 0, 10] := by decide

theorem test_hdrPkt :
    after (exec (.hdrPkt 0 0) (held 0 [0x08, 0x64, 0xC0, 0x05, 0x00, 0x03, 0xAA])) (firstRes 9) =
      some [0, 0, 1, 0x064, 3, 5, 3, 10, 0] := by decide

theorem test_hdrPkt_short :
    said (exec (.hdrPkt 0 0) (held 0 [0x08, 0x64, 0xC0, 0x05, 0x00, 0x03])) =
      some (.malformedInput, .shortHeader, 6) := by decide

theorem test_hdrSeg :
    after (exec (.hdrSeg 0 1) (held 0 [0x00, 0xC1])) (firstRes 2) = some [3, 1] := by decide

/-- The frame of 44_frame_packet.md R209. -/
def splitFrame : Bytes :=
  [0, 0, 0, 0, 0x18, 0x02, 0xAA, 0xBB, 0x00, 0x01, 0xC0, 0x00, 0x00, 0x01, 0x11, 0x22,
   0x00, 0x02, 0xC0, 0x00]

theorem test_tmfSplit :
    after (exec (.tmfSplit 0) (held 0 splitFrame)) (fun t => (firstRes 4 t, eventsOf t)) =
      some ([2, 1, 4, 0],
        [⟨.lead, 0, [0xAA, 0xBB]⟩,
         ⟨.packet, 0, [0x00, 0x01, 0xC0, 0x00, 0x00, 0x01, 0x11, 0x22]⟩,
         ⟨.trail, 0, [0x00, 0x02, 0xC0, 0x00]⟩]) := by decide

theorem test_tmfSplit_pointer :
    said (exec (.tmfSplit 0) (held 0 (splitFrame.set 5 14))) =
      some (.malformedInput, .badFhp, 14) := by decide

/-! ### ASM (the examples of 45_assembler.md R224 and R226) -/

/-- The 10-byte packet of 45_assembler.md R224. -/
def packet10 : Bytes := [0x00, 0x01, 0xC0, 0x00, 0x00, 0x03, 0xA0, 0xA1, 0xA2, 0xA3]

/-- The state after the first `ASM.PUSH` of that example. -/
def pushed1 : State := (after (exec (.asmPush 0) (held 0 packet10)) id).getD State.reset

/-- The state after the second. -/
def pushed2 : State := (after (exec (.asmPush 0) pushed1) id).getD State.reset

theorem test_asmPush :
    eventsOf pushed1 = [] ∧ pushed1.asmWr = 10 ∧ pushed1.asmFhp = 0 := by decide

theorem test_asmPush_frame :
    eventsOf pushed2 = [⟨.frame, 0, [0, 0, 0, 0, 0x18, 0x00] ++ packet10 ++ [0, 1, 0xC0, 0]⟩] ∧
    pushed2.asmWr = 6 ∧ pushed2.asmFhp = 0x7FF ∧ pushed2.asmVcfc = 1 ∧ pushed2.asmMcfc = 1 := by
  decide

theorem test_asmFlush :
    after (exec .asmFlush pushed2) eventsOf =
      some [⟨.frame, 0, [0, 0, 1, 1, 0x18, 0x06, 0x00, 0x03, 0xA0, 0xA1, 0xA2, 0xA3, 0x07, 0xFF, 0xC0,
        0x00, 0x00, 0x01, 0x00, 0x00]⟩] := by decide

theorem test_asmInit :
    after (exec .asmInit pushed2) (fun t => (t.asmWr, t.asmFhp, t.asmVcfc, eventsOf t)) =
      some (0, 0x7FF, 1, []) := by decide

/-! ### PKT (46_packetizer.md R239, R240) -/

/-- The state after `PKT.PUSH` of the frame of R209: an orphan is discarded, a packet delivered, four
bytes carried. -/
def carried : State := (after (exec (.pktPush 0) (held 0 splitFrame)) id).getD State.reset

theorem test_pktPush :
    carried.pktCarry = [0x00, 0x02, 0xC0, 0x00] ∧ carried.pktStatus = 0b011 ∧
    firstRes 2 carried = [2, 0] := by decide

theorem test_pktClear :
    after (exec .pktClear { carried with pktStatus := 0 })
      (fun t => (eventsOf t, t.pktCarry, t.pktStatus, firstRes 1 t)) =
      some ([⟨.discard, 3, [0x00, 0x02, 0xC0, 0x00]⟩], [], 0b010, [4]) := by decide

/-! ### the fixed functions of the host's interface -/

theorem test_decodeTableWord :
    decodeTableWord 160 0x3121000000000000000000000000000000000000 = some (.cltuDec 2 1) ∧
    decodeTableWord 160 0x0400000000000000000000000000000000000000 = none := by decide

theorem test_step_runs_word :
    step (State.reset.withFetchWord 160 0x2100000000000001000000000000000000000000) =
      exec (.bchStep 1) State.reset := rfl

/-! ### witnesses: the hypotheses of every statement that has any, clause by clause, at values where they
begin or end to hold -/

/-- A state in which the open frame holds 6 bytes and the carry 4. -/
def busy : State := (after (exec (.pktPush 0) (pushed2.setBuf 0 splitFrame)) id).getD State.reset

theorem busy_inv : busy.Inv := inv_of_invCheck (by decide)

theorem busy_holds : busy.asmWr = 6 ∧ busy.pktCarry.length = 4 := by decide

/-- A small instance: `BUF_CAP` 20, `B[0]` of 19 bytes. -/
def small : State :=
  (State.resetFor { tmFrameSize := 20, tmHasCrc := false, bufCap := 20 }).setBuf 0
    (List.replicate 19 0)

/-- `ASM.FLUSH` as a word. -/
def flushWord : CmdWord := 0x6100000000000000000000000000000000000000

theorem witness_ResetMeetsInvariant : configValid { tmFrameSize := 19, tmHasCrc := false } = true ∧
    configValid { tmFrameSize := 2054, tmHasCrc := true } = true ∧
    configValid { tmFrameSize := 18, tmHasCrc := false } = false := by decide

theorem witness_StepKeepsInvariant :
    (busy.issue flushWord []).Inv ∧ ∃ t, step (busy.issue flushWord []) = .next t :=
  ⟨inv_of_invCheck (by decide), _, rfl⟩

theorem witness_DecodeEncodeAgree :
    (Instr.buLoad 15 []).wellFormed = true ∧ (Instr.buSetbytes 0 0xFFFFFFFF [0xFF]).wellFormed = true ∧
    Instr.nop.wellFormed = true := by decide

theorem witness_WordLayout :
    ([] : Bytes).length ≠ 20 ∧ (List.replicate 19 (0 : Byte)).length ≠ 20 ∧
    (List.replicate 21 (0 : Byte)).length ≠ 20 := by decide

theorem witness_StepRunsDecoded :
    configValid busy.cfg = true ∧
    (busy.issue flushWord []).inputs = .command flushWord [] :: busy.inputs ∧
    decode flushWord [] = .ok .asmFlush := by decide

theorem witness_UndefinedOpcodesFault :
    configValid busy.cfg = true ∧
    (∀ w ∈ ([0x04, 0x0F, 0x1D, 0x1F, 0x23, 0x33, 0x43, 0x55, 0x63, 0x6F, 0x72, 0xFF] : List Nat),
      (BitVec.ofNat 160 (w * 2 ^ 152)).toNat / 2 ^ 128 % 2 ^ 16 = 0 ∧
      definedOpcode ((BitVec.ofNat 160 (w * 2 ^ 152)).toNat / 2 ^ 152) = false) ∧
    (busy.issue 0x0400000000000000000000000000000000000000 [1]).inputs =
      .command 0x0400000000000000000000000000000000000000 [1] :: busy.inputs ∧
    [(1 : Byte)].length < 2 ^ 32 := by decide

theorem witness_ReservedAndUnusedFields :
    (0x0300000100000000000000000000000000000000 : CmdWord).toNat / 2 ^ 128 % 2 ^ 16 ≠ 0 ∧
    (0xFFFFFFFF00000000000000000000000000000000 : CmdWord).toNat / 2 ^ 128 % 2 ^ 16 ≠ 0 ∧
    decode 0 [] = .ok .nop ∧
    AgreeOn (fieldUse .nop) (fieldsOf 0) (fieldsOf 0x00FF0000FFFFFFFFFFFFFFFFFFFFFFFFFFFFFFFF) ∧
    decode 0x1100000000000000000000000000000000000000 [7] = .ok (.buLoad 0 [7]) ∧
    AgreeOn (fieldUse (.buLoad 0 [7])) (fieldsOf 0x1100000000000000000000000000000000000000)
      (fieldsOf 0x110F000000000001000000020000000000000003) := by
  refine ⟨by decide, by decide, by decide, ?_, by decide, ?_⟩ <;> unfold AgreeOn <;> decide

theorem witness_FaultChangesOnlyErrflags :
    ∃ t r, runCommand 0xFF00000000000000000000000000000000000000 [] busy = .next t ∧
      t.response = some r ∧ r.status ≠ .ok := ⟨_, _, rfl, rfl, by decide⟩

theorem witness_ErrflagsUpdate :
    (∃ t r, runCommand 0x1204000000000000000000000000000000000000 [] busy = .next t ∧
      t.response = some r ∧ r.status ≠ .ok) ∧
    ∃ t r, runCommand flushWord [] busy = .next t ∧ t.response = some r ∧ r.status = .ok ∧
      decode flushWord [] = .ok .asmFlush ∧ Instr.asmFlush ≠ .sreset :=
  ⟨⟨_, _, rfl, rfl, by decide⟩, _, _, rfl, rfl, rfl, by decide, by decide⟩

theorem witness_EveryCommandAnswered :
    configValid busy.cfg = true ∧
    (busy.issue 0xFF00FFFF00000000000000000000000000000000 [1]).inputs =
      .command 0xFF00FFFF00000000000000000000000000000000 [1] :: busy.inputs ∧
    [(1 : Byte)].length < 2 ^ 32 := by decide

theorem witness_BadBufferIndexFaults :
    (bufOperands (.cltuEnc 4 3)).find? (fun b => decide (busy.cfg.nbuf ≤ b.toNat)) = some 4 ∧
    (bufOperands (.cltuEnc 4 5)).find? (fun b => decide (busy.cfg.nbuf ≤ b.toNat)) = some 5 ∧
    (∀ b ∈ bufOperands (.cltuEnc 3 0), b.toNat < busy.cfg.nbuf) ∧
    (after (exec (.cltuEnc 3 0) busy) fun t => t.response.isSome) = some true := by decide

theorem witness_ResWrittenByTable :
    (∃ t r, exec (.buLen 4) busy = .next t ∧ t.response = some r ∧ r.status ≠ .ok) ∧
    (∃ t r, exec (.buLen 3) busy = .next t ∧ t.response = some r ∧ r.status = .ok) ∧
    ∃ t r, exec .sreset busy = .next t ∧ t.response = some r :=
  ⟨⟨_, _, rfl, rfl, by decide⟩, ⟨_, _, rfl, rfl, rfl⟩, _, _, rfl, rfl⟩

theorem witness_ResNeverRead :
    (∃ t r, exec (.hdrTmf 0 0) busy = .next t ∧ t.response = some r ∧ r.status = .ok ∧
      resWritten (.hdrTmf 0 0) = 12) ∧
    ∃ t r, exec (.hdrTmf 1 0) busy = .next t ∧ t.response = some r ∧ r.status ≠ .ok :=
  ⟨⟨_, _, rfl, rfl, by decide, rfl⟩, _, _, rfl, rfl, by decide⟩

theorem witness_BuffersWrittenThroughBd :
    (∃ t, exec (.crcSet 0) busy = .next t) ∧ writesBuf (.crcSet 0) ≠ some 1 ∧
    changesLength (.crcSet 0) = false ∧ ∃ t, exec .sreset busy = .next t :=
  ⟨⟨_, rfl⟩, by decide, rfl, _, rfl⟩

theorem witness_UnitsKeepToThemselves :
    (∃ t, exec .pktClear busy = .next t) ∧ touchesBch .pktClear = false ∧
    touchesAsm .pktClear = false ∧ (∃ t, exec .asmFlush busy = .next t) ∧
    touchesPkt .asmFlush = false := ⟨⟨_, rfl⟩, rfl, rfl, ⟨_, rfl⟩, rfl⟩

theorem witness_ResponseForm :
    (∃ t, exec .asmFlush busy = .next t ∧ eventsOf t ≠ []) ∧
    ∃ t, exec (.buGetbytes 0 0 1) busy = .next t ∧
      ∃ r, t.response = some r ∧ r.status = .ok ∧ r.payload ≠ [] :=
  ⟨⟨_, rfl, by decide⟩, _, rfl, _, rfl, by decide, by decide⟩

theorem witness_ResponseBytesInjective :
    let r : Response := ⟨.ok, .none, 1, [2], [⟨.packet, 1, [3]⟩, ⟨.trail, 0, []⟩]⟩
    (∀ q ∈ [r, r], q.payload.length < 2 ^ 32 ∧ q.events.length < 2 ^ 16 ∧
      ∀ e ∈ q.events, e.data.length < 2 ^ 32) ∧ responseBytes r = responseBytes r := by decide

theorem long_payload (n : Nat) : ∃ p : Bytes, n ≤ p.length ∧
    (small.issue 0 p).inputs = .command 0 p :: small.inputs :=
  ⟨List.replicate n 0, by simp, rfl⟩

theorem witness_StepsWithoutCommand :
    configValid small.cfg = true ∧ small.inputs = [] ∧
    ({ small with inputs := [.resetInput] } : State).inputs = .resetInput :: [] ∧
    (∃ p : Bytes, 2 ^ 32 ≤ p.length ∧ (small.issue 0 p).inputs = .command 0 p :: small.inputs) ∧
    configValid (State.resetFor { tmFrameSize := 18, tmHasCrc := false }).cfg = false :=
  ⟨by decide, rfl, rfl, long_payload (2 ^ 32), by decide⟩

theorem witness_NopDoesNothing : ([] : Bytes).length < 2 ^ 32 := by decide

theorem witness_RegRdReads :
    busy.pktCarry.length ≤ 65542 ∧ registerValue busy 0x0F = some 0 ∧
    registerValue busy 0x10 = some 0 ∧ registerValue busy 0x30 = some 4 ∧
    registerValue busy 0x33 = some 0 ∧ registerValue busy 0x12 = none ∧
    registerValue busy 0x34 = none ∧ 0xFFFF < (0x10000 : Scalar).toNat := by decide

theorem witness_RegWrWrites :
    (∀ a ∈ ([0x10, 0x11, 0x20, 0x23, 0x32, 0x33] : List Scalar), a.toNat ∈ writableAddrs) ∧
    (∀ a ∈ ([0x00, 0x0F, 0x24, 0x25, 0x30, 0x31] : List Scalar), a.toNat ∈ readOnlyAddrs) ∧
    (∀ a ∈ ([0x12, 0x1F, 0x26, 0x2F, 0x34, 0x10000] : List Scalar),
      a.toNat ∉ writableAddrs ∧ a.toNat ∉ readOnlyAddrs) := by
  simp [writableAddrs, readOnlyAddrs]

theorem witness_NewAndLoadReplace :
    busy.cfg.nbuf ≤ (4 : BufIx).toNat ∧ (3 : BufIx).toNat < busy.cfg.nbuf ∧
    (65542 : Scalar).toNat ≤ busy.cfg.bufCap ∧ busy.cfg.bufCap < (65543 : Scalar).toNat ∧
    ([] : Bytes).length ≤ busy.cfg.bufCap ∧
    (State.resetFor { tmFrameSize := 20, tmHasCrc := false, bufCap := 20 }).cfg.bufCap <
      (List.replicate 21 (0 : Byte)).length := by decide

theorem witness_LengthCommands :
    (0 : BufIx).toNat < small.cfg.nbuf ∧ small.cfg.nbuf ≤ (4 : BufIx).toNat ∧
    (20 : Scalar).toNat ≤ small.cfg.bufCap ∧ small.cfg.bufCap < (21 : Scalar).toNat ∧
    (small.buf 0).length + [(1 : Byte)].length ≤ small.cfg.bufCap ∧
    small.cfg.bufCap < (small.buf 0).length + [(1 : Byte), 2].length := by decide

theorem witness_GetbitsReads :
    small.cfg.nbuf ≤ (4 : BufIx).toNat ∧ (0 : BufIx).toNat < small.cfg.nbuf ∧
    64 < (65 : Scalar).toNat ∧ (0 : Scalar).toNat = 0 ∧
    bitsSupported { small.cfg with unsupportedBits := [(7, 1)] } (151 % 8) 1 = false ∧
    bitsSupported small.cfg (151 % 8) 1 = true ∧
    (small.buf 0).length ≤ (151 + 2 - 1) / 8 ∧ (151 + 1 - 1) / 8 < (small.buf 0).length := by decide

theorem witness_SetbitsWrites :
    small.cfg.nbuf ≤ (4 : BufIx).toNat ∧ (0 : BufIx).toNat < small.cfg.nbuf ∧
    64 < (65 : Scalar).toNat ∧ bitsSupported small.cfg (88 % 8) 64 = true ∧
    (small.buf 0).length ≤ (89 + 64 - 1) / 8 ∧ (88 + 64 - 1) / 8 < (small.buf 0).length := by decide

theorem witness_BitAccessorLaw :
    (okNext (exec (.buSetbits 0 7 9 0x155) small)).isSome = true ∧
    (7 : Scalar).toNat ≤ (7 : Scalar).toNat ∧ (okNext (exec (.buGetbits 0 0 7) small)).isSome = true ∧
    (7 : Scalar).toNat + (9 : Scalar).toNat ≤ (16 : Scalar).toNat ∧
    (okNext (exec (.buGetbits 0 16 64) small)).isSome = true ∧
    (88 : Scalar).toNat = 8 * (11 : Scalar).toNat ∧ (64 : Scalar).toNat = 8 * (8 : Scalar).toNat ∧
    (okNext (exec (.buGetbits 0 88 64) small)).isSome = true ∧
    (okNext (exec (.buGetu 0 11 8) small)).isSome = true := by decide

theorem witness_IntegerReads :
    small.cfg.nbuf ≤ (4 : BufIx).toNat ∧ (0 : BufIx).toNat < small.cfg.nbuf ∧
    8 < (9 : Scalar).toNat ∧ 1 ≤ (8 : Scalar).toNat ∧ (8 : Scalar).toNat ≤ 8 ∧
    (small.buf 0).length < (12 : Scalar).toNat + (8 : Scalar).toNat ∧
    (11 : Scalar).toNat + (8 : Scalar).toNat ≤ (small.buf 0).length := by decide

theorem witness_IntegerWrites :
    Instr.buSets 0 18 1 5 ∈ [Instr.buSetu 0 18 1 5, Instr.buSets 0 18 1 5] ∧
    small.cfg.nbuf ≤ (4 : BufIx).toNat ∧ (0 : BufIx).toNat < small.cfg.nbuf ∧
    (0 : Scalar).toNat = 0 ∧ 8 < (9 : Scalar).toNat ∧ 1 ≤ (1 : Scalar).toNat ∧
    (small.buf 0).length < (19 : Scalar).toNat + (1 : Scalar).toNat ∧
    (18 : Scalar).toNat + (1 : Scalar).toNat ≤ (small.buf 0).length := by decide

theorem witness_ByteRuns :
    small.cfg.nbuf ≤ (4 : BufIx).toNat ∧ (0 : BufIx).toNat < small.cfg.nbuf ∧
    (small.buf 0).length < (20 : Scalar).toNat + (0 : Scalar).toNat ∧
    (19 : Scalar).toNat + (0 : Scalar).toNat ≤ (small.buf 0).length ∧
    (small.buf 0).length < (19 : Scalar).toNat + [(1 : Byte)].length ∧
    (18 : Scalar).toNat + [(1 : Byte)].length ≤ (small.buf 0).length := by decide

theorem witness_BchCommands : (255 : Scalar).toNat ≤ 255 ∧ 255 < (256 : Scalar).toNat := by decide

theorem witness_CltuEncLayout :
    small.cfg.nbuf ≤ (4 : BufIx).toNat ∧ (0 : BufIx).toNat < small.cfg.nbuf ∧
    small.cfg.bufCap < 10 + 8 * (((small.buf 0).length + 6) / 7) ∧
    10 + 8 * (((small.buf 1).length + 6) / 7) ≤ small.cfg.bufCap := by decide

/-- The 18-byte CLTU in `B[1]`. -/
def cltuState : State := held 1 cltu18

theorem cltu18_good : CltuGood cltu18 1 := by unfold CltuGood; decide

theorem empty_not_good (k : Nat) : ¬ CltuGood [] k := fun h => by simp [CltuGood] at h

theorem witness_CltuAccepts :
    cltuState.cfg.nbuf ≤ (4 : BufIx).toNat ∧ (1 : BufIx).toNat < cltuState.cfg.nbuf ∧
    CltuGood (cltuState.buf 1) 1 ∧ ∀ k, ¬ CltuGood (cltuState.buf 0) k := by
  refine ⟨by decide, by decide, ?_, ?_⟩
  · exact (show cltuState.buf 1 = cltu18 by decide) ▸ cltu18_good
  · exact (show cltuState.buf 0 = [] by decide) ▸ empty_not_good

theorem witness_CltuRejects :
    (1 : BufIx).toNat < cltuState.cfg.nbuf ∧ (3 : BufIx).toNat < cltuState.cfg.nbuf ∧
    Instr.cltuChk 1 ∈ [Instr.cltuDec 3 1, Instr.cltuChk 1] ∧
    (cltu18.take 9).length < 10 ∧ (cltu18.length - 1 - 10) % 8 ≠ 0 ∧
    (cltu18.set 1 0x91).take 2 ≠ [0xEB, 0x90] ∧
    (cltu18.set 10 0x54).drop 10 ≠ List.replicate 8 0x55 ∧
    bchCheck (slice (cltu18.set 9 0x71) 2 7) ≠ (cltu18.set 9 0x71).getD 9 0 := by decide

theorem witness_CltuRoundTrip :
    (3 : BufIx).toNat < busy.cfg.nbuf ∧
    10 + 8 * (((busy.buf 0).length + 6) / 7) ≤ busy.cfg.bufCap ∧
    10 + 8 * (((small.buf 1).length + 6) / 7) ≤ small.cfg.bufCap := by decide

theorem witness_CltuBitErrorsFound :
    (1 : BufIx).toNat < (held 1 (flipBit cltu18 79)).cfg.nbuf ∧ CltuGood cltu18 1 ∧ 0 < 1 ∧
    16 + 64 * 0 ≤ 16 ∧ 79 < 16 + 64 * (0 + 1) ∧
    (held 1 (flipBit cltu18 79)).buf 1 = (if 79 = 79 then flipBit cltu18 79 else []) ∧
    (held 1 (flipBit (flipBit cltu18 16) 79)).buf 1 =
      (if 16 = 79 then flipBit cltu18 16 else flipBit (flipBit cltu18 16) 79) :=
  ⟨by decide, cltu18_good, by decide, by decide, by decide, by decide, by decide⟩

theorem witness_CrcCalcComputes :
    small.cfg.nbuf ≤ (4 : BufIx).toNat ∧ (0 : BufIx).toNat < small.cfg.nbuf ∧
    (small.buf 0).length < (20 : Scalar).toNat + (0 : Scalar).toNat ∧
    (19 : Scalar).toNat + (0 : Scalar).toNat ≤ (small.buf 0).length ∧
    (0 : Scalar).toNat + (19 : Scalar).toNat ≤ (small.buf 0).length := by decide

theorem witness_CrcSetAndChk :
    (held 0 [0xFF]).cfg.nbuf ≤ (4 : BufIx).toNat ∧ (0 : BufIx).toNat < (held 0 [0xFF]).cfg.nbuf ∧
    ((held 0 [0xFF]).buf 0).length < 2 ∧ 2 ≤ ((held 0 [0xFF, 0xFF]).buf 0).length ∧
    CrcAgrees ((held 0 [0xFF, 0xFF]).buf 0) ∧ ¬ CrcAgrees ((held 0 [0xFF, 0xFE]).buf 0) := by decide

theorem witness_CrcRoundTrip :
    (3 : BufIx).toNat < (held 3 [0, 0]).cfg.nbuf ∧ 2 ≤ ((held 3 [0, 0]).buf 3).length := by decide

theorem witness_CrcBurstFound :
    let f : Bytes := digits ++ [0x29, 0xB1]
    (0 : BufIx).toNat < (held 0 (flipBit (flipBit f 72) 87)).cfg.nbuf ∧ 2 ≤ f.length ∧ CrcAgrees f ∧
    ((held 0 (flipBit (flipBit f 72) 87)).buf 0).length = f.length ∧
    (held 0 (flipBit (flipBit f 72) 87)).buf 0 ≠ f ∧
    ∀ q, q < 72 ∨ 72 + 16 ≤ q →
      bitValue ((held 0 (flipBit (flipBit f 72) 87)).buf 0) q = bitValue f q := by
  refine ⟨by decide, by decide, by decide, by decide, by decide, ?_⟩
  intro q hq
  by_cases h : q < 88
  · have : ∀ q < 72, bitValue ((held 0 (flipBit (flipBit (digits ++ [0x29, 0xB1]) 72) 87)).buf 0) q =
        bitValue (digits ++ [0x29, 0xB1]) q := by decide
    exact this q (by omega)
  · have h1 : (held 0 (flipBit (flipBit (digits ++ [0x29, 0xB1]) 72) 87)).buf 0 =
        digits ++ [0xA9, 0xB0] := by decide
    have h2 : 11 ≤ q / 8 := by omega
    rw [h1]
    simp [bitValue, List.getD_eq_getElem?_getD, digits, h2]

theorem witness_HdrTmfReads :
    (1 : BufIx).toNat < cltuState.cfg.nbuf ∧ cltuState.cfg.nbuf ≤ (4 : BufIx).toNat ∧
    (cltuState.buf 1).length - (13 : Scalar).toNat < 6 ∧
    (cltuState.buf 1).length - (0xFFFFFFFF : Scalar).toNat < 6 ∧
    6 ≤ (cltuState.buf 1).length - (12 : Scalar).toNat := by decide

theorem witness_HdrTcfAndSegRead :
    (1 : BufIx).toNat < cltuState.cfg.nbuf ∧ cltuState.cfg.nbuf ≤ (4 : BufIx).toNat ∧
    (cltuState.buf 1).length - (14 : Scalar).toNat < 5 ∧
    5 ≤ (cltuState.buf 1).length - (13 : Scalar).toNat ∧
    (cltuState.buf 1).length - (18 : Scalar).toNat < 1 ∧
    1 ≤ (cltuState.buf 1).length - (17 : Scalar).toNat := by decide

theorem witness_HdrPktReads :
    (1 : BufIx).toNat < cltuState.cfg.nbuf ∧ cltuState.cfg.nbuf ≤ (4 : BufIx).toNat ∧
    (cltuState.buf 1).length - (12 : Scalar).toNat < 7 ∧
    7 ≤ (cltuState.buf 1).length - (11 : Scalar).toNat := by decide

theorem witness_HdrEqualsGetbits :
    configValid cltuState.cfg = true ∧ 8 * (12 : Scalar).toNat + 48 ≤ 2 ^ 32 ∧
    (Instr.hdrTmf 1 12, tmfFields) ∈ [(Instr.hdrTmf 1 12, tmfFields), (Instr.hdrTcf 1 12, tcfFields),
      (Instr.hdrPkt 1 12, pktFields), (Instr.hdrSeg 1 12, segFields)] ∧
    (okNext (exec (.hdrTmf 1 12) cltuState)).isSome = true ∧ tmfFields[10]? = some (37, 11) := by
  decide

theorem witness_BadFramesRejected :
    configValid (held 0 splitFrame).cfg = true ∧ (0 : BufIx).toNat < (held 0 splitFrame).cfg.nbuf ∧
    Instr.pktPush 0 ∈ [Instr.tmfSplit 0, Instr.pktPush 0] ∧
    (splitFrame.take 19).length ≠ Config.vectors.tmFrameSize ∧
    dfLen Config.vectors ≤ pointerOf (splitFrame.set 5 14) ∧
    pointerOf (splitFrame.set 5 13) < dfLen Config.vectors ∧
    configValid { Config.vectors with tmHasCrc := true, tmFrameSize := 21 } = true ∧
    ¬ CrcAgrees (splitFrame ++ [0]) := by decide

theorem splitFrame_good : FrameGood Config.vectors splitFrame ∧
    FrameGood Config.vectors ((splitFrame.set 4 0x07).set 5 0xFE) ∧
    FrameGood Config.vectors ((splitFrame.set 4 0x07).set 5 0xFF) ∧
    ¬ FrameGood Config.vectors (splitFrame.set 5 14) := by unfold FrameGood; decide

theorem witness_TmfSplitPartitions :
    configValid (held 0 splitFrame).cfg = true ∧ (held 0 splitFrame).cfg.nbuf ≤ (4 : BufIx).toNat ∧
    (0 : BufIx).toNat < (held 0 splitFrame).cfg.nbuf ∧ (held 0 splitFrame).buf 0 = splitFrame ∧
    pointerOf splitFrame = 2 ∧ pointerOf ((splitFrame.set 4 0x07).set 5 0xFE) = 0x7FE ∧
    pointerOf ((splitFrame.set 4 0x07).set 5 0xFF) = 0x7FF := by decide

theorem witness_AsmPushPlacesPacket :
    pushed1.Inv ∧ (0 : BufIx).toNat < pushed1.cfg.nbuf ∧ pushed1.cfg.nbuf ≤ (4 : BufIx).toNat ∧
    IsPacket (pushed1.buf 0) ∧ ¬ IsPacket (pushed1.buf 1) ∧ ¬ IsPacket (packet10.take 9) := by
  refine ⟨inv_of_invCheck (by decide), by decide, by decide, ?_, ?_, ?_⟩ <;> unfold IsPacket <;> decide

theorem witness_AsmFramesFinalised :
    busy.Inv ∧ (∃ t r, exec .asmFlush busy = .next t ∧ t.response = some r ∧ r.events ≠ []) ∧
    pushed1.Inv ∧ ∃ t r, exec (.asmPush 0) pushed1 = .next t ∧ t.response = some r ∧ r.events ≠ [] :=
  ⟨busy_inv, ⟨_, _, rfl, rfl, by decide⟩, inv_of_invCheck (by decide), _, _, rfl, rfl, by decide⟩

/-- A state in which 6 bytes of the data field are free, so that `ASM.FLUSH` takes two turns. -/
def nearFull : State :=
  (after (exec (.asmPush 0) (held 0 [0x00, 0x01, 0xC0, 0x00, 0x00, 0x01, 0x11, 0x22])) id).getD
    State.reset

theorem witness_AsmFlushFills :
    busy.Inv ∧ 7 ≤ dfLen busy.cfg - busy.asmWr.toNat ∧ nearFull.Inv ∧
    dfLen nearFull.cfg - nearFull.asmWr.toNat = 6 ∧ carried.Inv ∧ carried.asmWr = 0 :=
  ⟨busy_inv, by decide, inv_of_invCheck (by decide), by decide, inv_of_invCheck (by decide), by decide⟩

theorem witness_PktPushReassembles :
    busy.Inv ∧ (0 : BufIx).toNat < busy.cfg.nbuf ∧ busy.cfg.nbuf ≤ (4 : BufIx).toNat ∧
    busy.buf 0 = splitFrame ∧ FrameGood busy.cfg splitFrame ∧
    pointerOf splitFrame ≠ 0x7FF ∧ pointerOf splitFrame ≠ 0x7FE :=
  ⟨busy_inv, by decide, by decide, by decide, splitFrame_good.1, by decide, by decide⟩

theorem witness_PacketizerKeepsEveryByte :
    busy.Inv ∧ busy.pktCtrl = 0 ∧
    (∃ t r, exec (.pktPush 0) busy = .next t ∧ t.response = some r ∧ r.status = .ok ∧
      pointerOf (busy.buf 0) ≠ 0x7FE) ∧
    ∃ t r, exec .pktClear busy = .next t ∧ t.response = some r ∧ r.events ≠ [] :=
  ⟨busy_inv, by decide, ⟨_, _, rfl, rfl, by decide, by decide⟩, _, _, rfl, rfl, by decide⟩

theorem witness_PktClearDiscards : busy.Inv ∧ busy.pktCarry ≠ [] ∧ pushed1.Inv ∧
    pushed1.pktCarry = [] := ⟨busy_inv, by decide, inv_of_invCheck (by decide), by decide⟩

theorem witness_ReassemblyEquivalence :
    configValid Config.vectors = true ∧
    (∀ q ∈ [packet10, idleOf Config.vectors 7], IsPacket q ∧ q.length ≤ Config.vectors.bufCap) ∧
    (∀ q ∈ [packet10], (packetOf q).info = 0) := by
  refine ⟨by decide, ?_, by decide⟩
  unfold IsPacket; decide

end Sys2Proof.Tests
end

section
/-! The command port: what `runCommand` does with a word that decodes, and what `step` does with a
command at the head of the inputs. -/

namespace Sys2Proof.Machine

theorem runCommand_of_decode_ok {w : CmdWord} {p : Bytes} {i : Instr} (hdecode : decode w p = .ok i)
    (s : State) : runCommand w p s = exec i s := by
  simp only [runCommand, hdecode]

/-- On a valid instance a command at the head of the inputs is consumed and run, whether or not its
word decodes. -/
theorem step_of_command {s : State} {w : CmdWord} {p : Bytes} {rest : List HostInput}
    (hvalid : configValid s.cfg = true) (hinputs : s.inputs = .command w p :: rest) :
    step s = runCommand w p { s with inputs := rest } := by
  simp only [step, hvalid, hinputs, if_true]

/-- Settles O7: the command leaves the inputs (`step_of_command`), and its word runs the instruction
it decodes to (`runCommand_of_decode_ok`). -/
theorem stepRunsDecoded : Obligations.StepRunsDecoded := by
  intro s w p rest i hvalid hinputs hdecode
  calc step s = runCommand w p { s with inputs := rest } := step_of_command hvalid hinputs
    _ = exec i { s with inputs := rest } := runCommand_of_decode_ok hdecode _

end Sys2Proof.Machine
end

section
/-! What a command does apart from `RES`: one predicate that says all a command can change
(`Effect`), and one that says that neither the change nor the answer depends on the result registers
it finds (`ResOblivious`). -/

namespace Sys2Proof.Machine

/-! ### the state apart from its result registers -/

/-- `s` with `q` as its result registers. -/
def State.withRes (s : State) (q : Vector Value 16) : State := { s with res := q }

@[simp] theorem State.withRes_cfg (s : State) (q : Vector Value 16) : (s.withRes q).cfg = s.cfg := rfl
@[simp] theorem State.withRes_buf (s : State) (q : Vector Value 16) (i : BufIx) :
    (s.withRes q).buf i = s.buf i := rfl
@[simp] theorem State.withRes_pktCarry (s : State) (q : Vector Value 16) :
    (s.withRes q).pktCarry = s.pktCarry := rfl

/-- Writing results changes `RES` alone. -/
theorem setResFrom_eq_withRes (s : State) (n : Nat) (vs : List Value) :
    s.setResFrom n vs = s.withRes (s.setResFrom n vs).res := setResFrom_frame s n vs

theorem writeReg_withRes (s : State) (q : Vector Value 16) (v : Value) (r : Reg) :
    writeReg (s.withRes q) v r = (writeReg s v r).withRes q := by cases r <;> rfl

/-! ### the Assembler and the Packetizer do not look at `RES` -/

/-- What a unit answers, its state with `q` as result registers. -/
def eventsWithRes (q : Vector Value 16) (r : State × List Event) : State × List Event :=
  (r.1.withRes q, r.2)

@[simp] theorem eventsWithRes_fst (q : Vector Value 16) (r : State × List Event) :
    (eventsWithRes q r).1 = r.1.withRes q := rfl
@[simp] theorem eventsWithRes_snd (q : Vector Value 16) (r : State × List Event) :
    (eventsWithRes q r).2 = r.2 := rfl

theorem asmFill_withRes (fuel : Nat) (d : Bytes) (s : State) (q : Vector Value 16) :
    asmFill fuel d (s.withRes q) = eventsWithRes q (asmFill fuel d s) := by
  induction fuel generalizing d s with
  | zero => rfl
  | succ fuel ih =>
    have hcopy (d : Bytes) : asmCopy d (s.withRes q) = (asmCopy d s).withRes q := rfl
    have hfinal (t : State) : asmFinalize (t.withRes q) = (asmFinalize t).withRes q := rfl
    simp only [asmFill, hcopy, hfinal, ih, apply_ite (eventsWithRes q)]
    rfl

theorem asmPut_withRes (d : Bytes) (s : State) (q : Vector Value 16) :
    asmPut d (s.withRes q) = eventsWithRes q (asmPut d s) := by
  have hstart : (if (s.withRes q).asmFhp.toNat = fhpNoFirst then
      { s.withRes q with asmFhp := (s.withRes q).asmWr } else s.withRes q) =
      (if s.asmFhp.toNat = fhpNoFirst then { s with asmFhp := s.asmWr } else s).withRes q := by
    rw [apply_ite (State.withRes · q)]; rfl
  rw [asmPut, hstart, asmFill_withRes, asmPut]

theorem asmFlushLoop_withRes (fuel : Nat) (s : State) (q : Vector Value 16) :
    asmFlushLoop fuel (s.withRes q) = eventsWithRes q (asmFlushLoop fuel s) := by
  induction fuel generalizing s with
  | zero => rfl
  | succ fuel ih =>
    have hnext (r : State × List Event) :
        asmFlushLoop fuel (eventsWithRes q r).1 = eventsWithRes q (asmFlushLoop fuel r.1) := ih r.1
    simp only [asmFlushLoop, asmPut_withRes, hnext, apply_ite (eventsWithRes q)]
    rfl

theorem setCarry_withRes (b : Bytes) (s : State) (q : Vector Value 16) :
    setCarry b (s.withRes q) = (setCarry b s).withRes q := by
  rw [setCarry, setCarry, apply_ite (State.withRes · q)]; rfl

theorem pktLead_withRes (cls : Nat) (lead : Bytes) (s : State) (q : Vector Value 16) :
    pktLead cls lead (s.withRes q) = eventsWithRes q (pktLead cls lead s) := by
  have hstart : (if (s.withRes q).pktCarry = [] then setPktStatus orphanBit (s.withRes q)
      else s.withRes q) = (if s.pktCarry = [] then setPktStatus orphanBit s else s).withRes q := by
    rw [apply_ite (State.withRes · q)]; rfl
  simp only [pktLead, hstart, setCarry_withRes, apply_ite (eventsWithRes q)]
  rfl

theorem pktAccept_withRes (cls : Nat) (p : Parts) (s : State) (q : Vector Value 16) :
    pktAccept cls p (s.withRes q) = eventsWithRes q (pktAccept cls p s) := by
  have htrail (b : Bytes) (r : State × List Event) :
      pktTrail b (eventsWithRes q r).1 = (pktTrail b r.1).withRes q := by
    simp only [pktTrail, eventsWithRes, setCarry_withRes, apply_ite (State.withRes · q)]
  simp only [pktAccept, pktLead_withRes, htrail, apply_ite (eventsWithRes q)]
  rfl

/-! ### what a command can change -/

/-- All that a command other than `SRESET` can change apart from `RES` and the response when it
completes with `OK`, with what its checks have established. -/
inductive Effect : Instr → State → State → Prop
  | none {i s} : Effect i s s
  | buffer {i s bd b} (hwrites : writesBuf i = some bd) (hbd : bd.toNat < s.cfg.nbuf)
      (hcap : Memory.wf s.cfg s.bufs → b.length ≤ s.cfg.bufCap) : Effect i s (s.setBuf bd b)
  | bch {i s} (r : BitVec 7) (htouches : touchesBch i = true) : Effect i s { s with bchSr := r }
  | regWr {x v s} (r : Reg) : Effect (.regWr x v) s (writeReg s v r)
  | asmPush {bs s} (hlength : minPkt ≤ (s.buf bs).length) :
      Effect (.asmPush bs) s (asmPut (s.buf bs) s).1
  | asmFlush {s} : Effect .asmFlush s (asmFlushLoop 2 s).1
  | asmInit {s} : Effect .asmInit s (asmOpen s)
  | pktPush {bs s p} (hcheck : frameCheck s.cfg (s.buf bs) = .ok p) :
      Effect (.pktPush bs) s (pktAccept (fhpClass p) (tmSplit s.cfg (s.buf bs) p) s).1
  | pktClear {s} : Effect .pktClear s (discardCarry .cleared s).1

/-- The completion `k q` that `i` reaches when it finds `q` in `RES` is a fault whatever `q` is, or
`OK` with a change of state, results, payload and events that do not depend on `q`. -/
inductive ResOblivious (i : Instr) (s : State) : (Vector Value 16 → Completion) → Prop
  | raised (r : Reason) (a : Value) (hfault : statusOf r ≠ .ok) :
      ResOblivious i s fun _ => .raised r a
  | done (t : State) (vs : List Value) (v : Vector Value 16 → Value) (p : Bytes) (e : List Event)
      (heffect : Effect i s t) (hcount : vs.length = resWritten i) :
      ResOblivious i s fun q => .done ((t.withRes q).setResFrom 0 vs) (v q) p e

namespace ResOblivious

variable {i : Instr} {s : State} {k : Vector Value 16 → Completion}

/-! ### the ways to end with `OK` -/

theorem finishEvents {t : State} {vs : List Value} {e : List Event} (heffect : Effect i s t)
    (hcount : vs.length = resWritten i) :
    ResOblivious i s fun q => finishEvents ((t.withRes q).setResFrom 0 vs) e :=
  .done t vs _ [] e heffect hcount

theorem finish {t : State} (heffect : Effect i s t) (hcount : resWritten i = 0) :
    ResOblivious i s fun q => finish (t.withRes q) :=
  .done t [] _ [] [] heffect hcount.symm

theorem finish_setRes {t : State} {v : Value} (heffect : Effect i s t) (hcount : resWritten i = 1) :
    ResOblivious i s fun q => Machine.finish ((t.withRes q).setRes 0 v) :=
  .done t [v] _ [] [] heffect hcount.symm

theorem finish_setRes_events {t : State} {v : Value} {e : List Event} (heffect : Effect i s t)
    (hcount : resWritten i = 1) :
    ResOblivious i s fun q => Machine.finishEvents ((t.withRes q).setRes 0 v) e :=
  .done t [v] _ [] e heffect hcount.symm

/-! ### the checks -/

theorem require {ok : Bool} {r : Reason} {a : Value} (hfault : statusOf r ≠ .ok)
    (h : ok = true → ResOblivious i s k) : ResOblivious i s fun q => require ok r a (k q) := by
  cases ok with
  | true => exact h rfl
  | false => exact .raised r a hfault

theorem usesBuf {b : BufIx} (h : b.toNat < s.cfg.nbuf → ResOblivious i s k) :
    ResOblivious i s fun q => usesBuf (s.withRes q) b (k q) :=
  require (by decide) fun hb => h (of_decide_eq_true hb)

theorem byteWidth {y : Scalar} {k : Vector Value 16 → Nat → Completion}
    (h : ResOblivious i s fun q => k q y.toNat) :
    ResOblivious i s fun q => byteWidth y (k q) :=
  require (by decide) fun _ => h

theorem bitSpan {x y : Scalar} {k : Vector Value 16 → Nat → Nat → Completion}
    (h : ResOblivious i s fun q => k q x.toNat y.toNat) :
    ResOblivious i s fun q => bitSpan (s.withRes q) x y (k q) :=
  require (ok := decide (1 ≤ y.toNat ∧ y.toNat ≤ maxBits) &&
    bitsSupported s.cfg (x.toNat % 8) y.toNat) (r := .badBitWidth) (by decide) fun _ => h

theorem byteValue {x : Scalar} {k : Vector Value 16 → Byte → Completion}
    (h : ResOblivious i s fun q => k q (x.setWidth 8)) :
    ResOblivious i s fun q => byteValue x (k q) :=
  require (by decide) fun _ => h

theorem headerAt {b : BufIx} {x : Scalar} {need : Nat} {k : Vector Value 16 → Bytes → Completion}
    (h : ResOblivious i s fun q => k q (slice (s.buf b) x.toNat need)) :
    ResOblivious i s fun q => headerAt (s.withRes q) b x need (k q) :=
  require (ok := decide (need ≤ (s.buf b).length - x.toNat)) (r := .shortHeader)
    (a := val ((s.buf b).length - x.toNat)) (by decide) fun _ => h

theorem memRead {b : BufIx} {off n : Nat} {k : Vector Value 16 → Bytes → Completion}
    (h : ResOblivious i s fun q => k q (slice (s.buf b) off n)) :
    ResOblivious i s fun q => memRead (s.withRes q) b off n (k q) :=
  require (ok := decide (off + n ≤ (s.buf b).length)) (r := .fieldOutOfRange) (by decide) fun _ => h

theorem bitRead {b : BufIx} {p w : Nat} {k : Vector Value 16 → Nat → Completion}
    (h : ResOblivious i s fun q => k q (bitField (s.buf b) p w)) :
    ResOblivious i s fun q => bitRead (s.withRes q) b p w (k q) :=
  require (ok := decide ((p + w - 1) / 8 < (s.buf b).length)) (r := .fieldOutOfRange) (by decide) fun _ => h

/-! ### writing the buffer operand -/

variable {bd : BufIx}

theorem memWrite {off : Nat} {d : Bytes} (hwrites : writesBuf i = some bd)
    (hbd : bd.toNat < s.cfg.nbuf) (hcount : resWritten i = 0) :
    ResOblivious i s fun q => memWrite (s.withRes q) bd off d Machine.finish :=
  require (ok := decide (off + d.length ≤ (s.buf bd).length)) (r := .fieldOutOfRange) (by decide)
    fun hfits =>
    .finish (t := s.setBuf bd (overwrite (s.buf bd) off d))
      (.buffer hwrites hbd fun hwf => by
        rw [overwrite_length _ _ _ (of_decide_eq_true hfits)]; exact wf_buf_length s bd hwf hbd)
      hcount

theorem bitWrite {p w v : Nat} (hwrites : writesBuf i = some bd)
    (hbd : bd.toNat < s.cfg.nbuf) (hcount : resWritten i = 0) :
    ResOblivious i s fun q => bitWrite (s.withRes q) bd p w v Machine.finish :=
  require (ok := decide ((p + w - 1) / 8 < (s.buf bd).length)) (r := .fieldOutOfRange) (by decide)
    fun _ =>
    .finish (t := s.setBuf bd (setBitField (s.buf bd) p w v))
      (.buffer hwrites hbd fun hwf => by
        rw [setBitField_length]; exact wf_buf_length s bd hwf hbd)
      hcount

theorem replaceBuf {n : Nat} {b : Bytes} {v : State → Value}
    (hwrites : writesBuf i = some bd) (hbd : bd.toNat < s.cfg.nbuf) (hlength : b.length = n)
    (hcount : resWritten i = 1) (hvalue : ∀ q, v ((s.withRes q).setBuf bd b) = v (s.setBuf bd b)) :
    ResOblivious i s fun q =>
      replaceBuf (s.withRes q) bd n b fun t => Machine.finish (t.setRes 0 (v t)) :=
  require (ok := decide (n ≤ s.cfg.bufCap)) (r := .bufferCapacity) (by decide) fun hcap => by
    simp only [hvalue]
    exact .finish_setRes (t := s.setBuf bd b)
      (.buffer hwrites hbd fun _ => hlength ▸ of_decide_eq_true hcap) hcount

end ResOblivious

/-! ### what the validators answer -/

theorem statusOf_frameCheck_error {c : Config} {f : Bytes} {r : Reason} {a : Nat}
    (h : frameCheck c f = .error (r, a)) : statusOf r ≠ .ok := by
  unfold frameCheck at h
  split_ifs at h <;> cases h <;> decide

theorem statusOf_cltuValidate_error {c : Bytes} {r : Reason} {a : Nat}
    (h : cltuValidate c = .error (r, a)) : statusOf r ≠ .ok := by
  simp only [cltuValidate] at h
  split_ifs at h
  iterate 4 (cases h; decide)
  split at h <;> cases h
  decide

theorem cltuValidate_ok {c : Bytes} {k : Nat} (h : cltuValidate c = .ok k) :
    k = (c.length - 10) / 8 := by
  simp only [cltuValidate] at h
  split_ifs at h
  split at h <;> cases h
  rfl

theorem blockData_length_le (k : Nat) (body : Bytes) : (blockData k body).length ≤ 7 * k := by
  induction k generalizing body with
  | zero => simp [blockData]
  | succ k ih =>
    have := ih (body.drop 8)
    simp only [blockData, List.length_append, List.length_take]
    omega

/-! ### every command -/

theorem execPktClear_eq (s : State) : execPktClear s = complete s
    (if s.pktCarry = [] then finishEvents (s.setRes 0 0) [] else
      finishEvents ((discardCarry .cleared s).1.setRes 0 (val s.pktCarry.length))
        (discardCarry .cleared s).2) := by
  unfold execPktClear
  by_cases h : s.pktCarry = []
  · simp [h, val]
  · simp [h]

/-- What `i` does in `s` depends on `RES` in no other way than `ResOblivious` allows. -/
def ExecOblivious (i : Instr) (s : State) : Prop :=
  ∃ k, ResOblivious i s k ∧ ∀ q, exec i (s.withRes q) = complete (s.withRes q) (k q)

theorem ExecOblivious.of_completion {i : Instr} {s : State} {f : State → Completion}
    (hexec : ∀ t, exec i t = complete t (f t)) (h : ResOblivious i s fun q => f (s.withRes q)) :
    ExecOblivious i s := ⟨_, h, fun q => hexec (s.withRes q)⟩

/-- What a command other than `SRESET` changes and answers is oblivious of `RES`: its checks, in the
order the command makes them, and then the way it ends. -/
theorem exec_oblivious (i : Instr) (s : State) (hi : i ≠ .sreset) : ExecOblivious i s := by
  cases i with
  | sreset => exact absurd rfl hi
  | nop => exact .of_completion (fun _ => rfl) (.finish .none rfl)
  | regRd x =>
    refine .of_completion (fun _ => rfl) ?_
    cases regAt x with
    | none => exact .raised _ _ (by decide)
    | some r => exact .done s [] _ [] [] .none rfl
  | regWr x v =>
    refine .of_completion (fun _ => rfl) ?_
    cases regAt x with
    | none => exact .raised _ _ (by decide)
    | some r =>
      refine .require (by decide) fun _ => ?_
      simp only [writeReg_withRes]
      exact .finish (.regWr r) rfl
  | buNew bd x =>
    exact .of_completion (fun _ => rfl) <| .usesBuf fun hbd =>
      .replaceBuf (v := fun _ => val x.toNat) rfl hbd (by simp) rfl fun _ => rfl
  | buLoad bd p =>
    exact .of_completion (fun _ => rfl) <| .usesBuf fun hbd =>
      .replaceBuf (v := fun _ => val p.length) rfl hbd rfl rfl fun _ => rfl
  | buLen bs =>
    exact .of_completion (fun _ => rfl) <| .usesBuf fun _ =>
      .finish_setRes (v := val (s.buf bs).length) .none rfl
  | buSetlen bd x =>
    exact .of_completion (fun _ => rfl) <| .usesBuf fun hbd =>
      .replaceBuf (b := withLength (s.buf bd) x.toNat) (v := fun _ => val x.toNat) rfl hbd (by simp)
        rfl fun _ => rfl
  | buAppend bd p =>
    exact .of_completion (fun _ => rfl) <| .usesBuf fun hbd =>
      .replaceBuf (n := (s.buf bd).length + p.length) (b := s.buf bd ++ p)
        (v := fun _ => val ((s.buf bd).length + p.length)) rfl hbd (by simp) rfl fun _ => rfl
  | buGetbits bs x y =>
    exact .of_completion (fun _ => rfl) <| .usesBuf fun _ =>
      .bitSpan <| .bitRead <| .finish_setRes .none rfl
  | buSetbits bd x y v =>
    exact .of_completion (fun _ => rfl) <| .usesBuf fun hbd => .bitSpan <| .bitWrite rfl hbd rfl
  | buGetu bs x y =>
    exact .of_completion (fun _ => rfl) <| .usesBuf fun _ =>
      .byteWidth <| .memRead <| .finish_setRes .none rfl
  | buGets bs x y =>
    exact .of_completion (fun _ => rfl) <| .usesBuf fun _ =>
      .byteWidth <| .memRead <| .finish_setRes .none rfl
  | buSetu bd x y v =>
    exact .of_completion (fun _ => rfl) <| .usesBuf fun hbd => .byteWidth <| .memWrite rfl hbd rfl
  | buSets bd x y v =>
    exact .of_completion (fun _ => rfl) <| .usesBuf fun hbd => .byteWidth <| .memWrite rfl hbd rfl
  | buGetbytes bs x y =>
    exact .of_completion (fun _ => rfl) <| .usesBuf fun _ => .memRead <| .done s [] _ _ [] .none rfl
  | buSetbytes bd x p =>
    exact .of_completion (fun _ => rfl) <| .usesBuf fun hbd => .memWrite rfl hbd rfl
  | bchStart =>
    exact .of_completion (f := fun t => finish ({ t with bchSr := 0 }.setRes 0 0)) (fun _ => rfl) <|
      .finish_setRes (t := { s with bchSr := 0 }) (.bch 0 rfl) rfl
  | bchStep x =>
    refine .of_completion (fun _ => rfl) <| .byteValue ?_
    exact .finish_setRes (t := { s with bchSr := bchTable s.bchSr (x.setWidth 8) })
      (v := (bchTable s.bchSr (x.setWidth 8)).setWidth 64) (.bch _ rfl) rfl
  | bchStop =>
    exact .of_completion (f := fun t => finish (t.setRes 0 ((checkByte t.bchSr).setWidth 64)))
      (fun _ => rfl) <| .finish_setRes (v := (checkByte s.bchSr).setWidth 64) .none rfl
  | cltuEnc bd bs =>
    exact .of_completion (fun _ => rfl) <| .usesBuf fun _ => .usesBuf fun hbd =>
      .replaceBuf (n := 10 + 8 * blockCount (s.buf bs).length) (b := cltuEncode (s.buf bs))
        (v := fun t => val (t.buf bd).length) rfl hbd (by simp) rfl (by simp)
  | cltuDec bd bs =>
    refine .of_completion (fun _ => rfl) <| .usesBuf fun hbs => .usesBuf fun hbd => ?_
    simp only [State.withRes_buf]
    cases h : cltuValidate (s.buf bs) with
    | error e => exact .raised _ _ (statusOf_cltuValidate_error h)
    | ok k =>
      refine .finish_setRes (t := s.setBuf bd (blockData k ((s.buf bs).drop 2)))
        (.buffer rfl hbd fun hwf => ?_) rfl
      have hdata := blockData_length_le k ((s.buf bs).drop 2)
      have hsource := wf_buf_length s bs hwf hbs
      have hblocks := cltuValidate_ok h
      omega
  | cltuChk bs =>
    refine .of_completion (fun _ => rfl) <| .usesBuf fun _ => ?_
    simp only [State.withRes_buf]
    cases h : cltuValidate (s.buf bs) with
    | error e => exact .raised _ _ (statusOf_cltuValidate_error h)
    | ok k => exact .finish_setRes .none rfl
  | crcCalc bs x y =>
    exact .of_completion (fun _ => rfl) <| .usesBuf fun _ => .memRead <| .finish_setRes .none rfl
  | crcSet bd =>
    refine .of_completion (fun _ => rfl) <| .usesBuf fun hbd => ?_
    simp only [State.withRes_buf]
    refine .require (ok := decide (2 ≤ (s.buf bd).length)) (r := .fieldOutOfRange) (by decide)
      fun hlength => ?_
    refine .finish_setRes (t := s.setBuf bd (withCrc (s.buf bd))) (.buffer rfl hbd fun hwf => ?_) rfl
    rw [withCrc_length _ (of_decide_eq_true hlength)]
    exact wf_buf_length s bd hwf hbd
  | crcChk bs =>
    refine .of_completion (fun _ => rfl) <| .usesBuf fun _ => ?_
    simp only [State.withRes_buf]
    refine .require (ok := decide (2 ≤ (s.buf bs).length)) (r := .fieldOutOfRange) (by decide)
      fun _ => ?_
    exact .require (ok := decide ((crcOfBody (s.buf bs)).toNat = crcStored (s.buf bs)))
      (r := .crcMismatch) (by decide) fun _ => .finish_setRes .none rfl
  | hdrTmf bs x =>
    exact .of_completion (fun _ => rfl) <| .usesBuf fun _ => .headerAt <| .finishEvents .none rfl
  | hdrTcf bs x =>
    exact .of_completion (fun _ => rfl) <| .usesBuf fun _ => .headerAt <| .finishEvents .none rfl
  | hdrPkt bs x =>
    exact .of_completion (fun _ => rfl) <| .usesBuf fun _ => .headerAt <| .finishEvents .none rfl
  | hdrSeg bs x =>
    exact .of_completion (fun _ => rfl) <| .usesBuf fun _ => .headerAt <| .finishEvents .none rfl
  | tmfSplit bs =>
    refine .of_completion (fun _ => rfl) <| .usesBuf fun _ => ?_
    simp only [State.withRes_buf, State.withRes_cfg]
    cases h : frameCheck s.cfg (s.buf bs) with
    | error e => exact .raised _ _ (statusOf_frameCheck_error h)
    | ok p => exact .finishEvents .none rfl
  | asmPush bs =>
    refine .of_completion (fun _ => rfl) <| .usesBuf fun _ => ?_
    simp only [State.withRes_buf, asmPut_withRes, eventsWithRes_fst, eventsWithRes_snd]
    refine .require (ok := decide (minPkt ≤ (s.buf bs).length)) (r := .badPacketLength) (by decide)
      fun hlength => ?_
    exact .require (ok := decide ((s.buf bs).length = declaredSize (s.buf bs)))
      (r := .badPacketLength) (by decide) fun _ =>
      .finish_setRes_events (.asmPush (of_decide_eq_true hlength)) rfl
  | asmFlush =>
    refine .of_completion (f := fun t => finishEvents ((asmFlushLoop 2 t).1.setRes 0
      (val (asmFlushLoop 2 t).2.length)) (asmFlushLoop 2 t).2) (fun _ => rfl) ?_
    simp only [asmFlushLoop_withRes, eventsWithRes_fst, eventsWithRes_snd]
    exact .finish_setRes_events .asmFlush rfl
  | asmInit =>
    exact .of_completion (f := fun t => finish (asmOpen t)) (fun _ => rfl) <|
      .finish (t := asmOpen s) .asmInit rfl
  | pktPush bs =>
    refine .of_completion (fun _ => rfl) <| .usesBuf fun _ => ?_
    simp only [State.withRes_buf, State.withRes_cfg, pktAccept_withRes, eventsWithRes_fst,
      eventsWithRes_snd]
    cases h : frameCheck s.cfg (s.buf bs) with
    | error e => exact .raised _ _ (statusOf_frameCheck_error h)
    | ok p => exact .finishEvents (vs := [_, _]) (.pktPush h) rfl
  | pktClear =>
    refine .of_completion (f := fun t => if t.pktCarry = [] then finishEvents (t.setRes 0 0) [] else
      finishEvents ((discardCarry .cleared t).1.setRes 0 (val t.pktCarry.length))
        (discardCarry .cleared t).2) execPktClear_eq ?_
    by_cases hcarry : s.pktCarry = []
    · simp only [State.withRes_pktCarry, hcarry, if_true]
      exact .finish_setRes .none rfl
    · simp only [State.withRes_pktCarry, hcarry, if_false]
      exact .finish_setRes_events (t := (discardCarry .cleared s).1)
        (v := val s.pktCarry.length) (e := (discardCarry .cleared s).2) .pktClear rfl

end Sys2Proof.Machine
end

section
/-! What follows for every command: which result registers it writes, that it reads none, and which
units it leaves alone. -/

namespace Sys2Proof.Machine

/-- A command other than `SRESET` takes a fault in the state it found, or answers `OK` after one of the
changes of `Effect` and with the results of R22's table written. -/
theorem exec_cases {i : Instr} {s u : State} (hi : i ≠ .sreset) (h : exec i s = .next u) :
    (∃ r a, statusOf r ≠ .ok ∧ u = takeFault s r a) ∨
    ∃ t vs v p e, Effect i s t ∧ vs.length = resWritten i ∧
      u = answerOk ((t.withRes s.res).setResFrom 0 vs) v p e := by
  obtain ⟨k, hk, hrun⟩ := exec_oblivious i s hi
  have hu : complete s (k s.res) = .next u := (hrun s.res).symm.trans h
  cases hk with
  | raised r a hfault => exact .inl ⟨r, a, hfault, by simpa using hu.symm⟩
  | done t vs v p e heffect hcount =>
    exact .inr ⟨t, vs, v s.res, p, e, heffect, hcount, by simpa using hu.symm⟩

/-- `SRESET` never faults (47_system.md R258). -/
theorem exec_sreset (s : State) : exec .sreset s = .next (answerOk (resetState s) 0 [] []) := rfl

/-! ### result registers -/

theorem setResFrom_res_of_le (s : State) (vs : List Value) (j : Fin 16) (h : vs.length ≤ j.val) :
    (s.setResFrom 0 vs).res[j] = s.res[j] := by
  rw [setResFrom_res, if_neg (by omega)]

theorem setResFrom_res_of_lt (s : State) (vs : List Value) (j : Fin 16) (h : j.val < vs.length) :
    (s.setResFrom 0 vs).res[j] = vs.getD j.val 0 := by
  rw [setResFrom_res, if_pos (by omega), Nat.sub_zero]

/-- Settles O14: a fault leaves `RES` alone, and `OK` writes the first `resWritten i` registers
(`exec_cases`). -/
theorem resWrittenByTable : Obligations.ResWrittenByTable := by
  intro i s t r hexec hresponse
  by_cases hi : i = .sreset
  · subst hi
    rw [exec_sreset] at hexec
    cases hexec
    cases hresponse
    exact ⟨fun h => absurd rfl h, fun _ h => absurd rfl h, fun _ j => by simp⟩
  · obtain ⟨r', a, hstatus, rfl⟩ | ⟨u, vs, v, p, e, -, hcount, rfl⟩ := exec_cases hi hexec
    · cases hresponse
      exact ⟨fun _ _ _ => rfl, fun hok => absurd hok hstatus, fun h => absurd h hi⟩
    · cases hresponse
      exact ⟨fun hfault => absurd rfl hfault,
        fun _ _ j hj => setResFrom_res_of_le (u.withRes s.res) vs j (hcount ▸ hj),
        fun h => absurd h hi⟩

/-- Settles O15: the completion is the same whatever `RES` holds (`exec_oblivious`), and the registers
written hold the same results. -/
theorem resNeverRead : Obligations.ResNeverRead := by
  intro i s t q r hexec hresponse
  by_cases hi : i = .sreset
  · subst hi
    rw [exec_sreset] at hexec
    cases hexec
    cases hresponse
    exact ⟨_, _, rfl, rfl, rfl, rfl, rfl, rfl, rfl, fun _ _ _ => rfl, fun _ => rfl⟩
  · obtain ⟨k, hk, hrun⟩ := exec_oblivious i s hi
    have ht : complete s (k s.res) = .next t := (hrun s.res).symm.trans hexec
    cases hk with
    | raised r' a hfault =>
      cases ht
      cases hresponse
      exact ⟨_, _, hrun q, rfl, rfl, rfl, rfl, rfl, rfl, fun hok => absurd hok hfault, fun _ => rfl⟩
    | done u vs v p e heffect hcount =>
      cases ht
      cases hresponse
      refine ⟨_, _, hrun q, rfl, ?_, rfl, rfl, rfl, rfl, fun _ j hj => ?_, fun h => absurd rfl h⟩
      · rw [setResFrom_eq_withRes (u.withRes q), setResFrom_eq_withRes (u.withRes s.res)]
        rfl
      · have hwritten : j.val < vs.length := hcount ▸ hj
        exact (setResFrom_res_of_lt _ vs j hwritten).trans (setResFrom_res_of_lt _ vs j hwritten).symm

/-! ### units -/

/-- What every command but `SRESET` and those of the unit itself leaves alone. -/
structure KeepsUnits (i : Instr) (s t : State) : Prop where
  bch : touchesBch i = false → t.bchSr = s.bchSr
  asm : touchesAsm i = false → SameAsm s t
  pkt : touchesPkt i = false → SamePkt s t
  cfg : t.cfg = s.cfg
  inputs : t.inputs = s.inputs

theorem sameAsm_refl (s : State) : SameAsm s s := ⟨rfl, rfl, rfl, rfl, rfl, rfl, rfl⟩

theorem samePkt_refl (s : State) : SamePkt s s := ⟨rfl, rfl, rfl, rfl, rfl⟩

/-- `s` with the registers of the open frame and the two counters of `u`. -/
def withAsmOf (s u : State) : State :=
  { s with
    asmFrame := u.asmFrame, asmWr := u.asmWr, asmFhp := u.asmFhp,
    asmVcfc := u.asmVcfc, asmMcfc := u.asmMcfc }

theorem keepsUnits_withAsmOf {i : Instr} (s u : State) (hi : touchesAsm i = true) :
    KeepsUnits i s (withAsmOf s u) :=
  ⟨fun _ => rfl, fun h => absurd h (by simp [hi]), fun _ => samePkt_refl s, rfl, rfl⟩

theorem keepsUnits_withPktOf {i : Instr} (s u : State) (hi : touchesPkt i = true) :
    KeepsUnits i s (withPktOf s u) :=
  ⟨fun _ => rfl, fun _ => sameAsm_refl s, fun h => absurd h (by simp [hi]), rfl, rfl⟩

theorem Effect.keepsUnits {i : Instr} {s t : State} (h : Effect i s t) : KeepsUnits i s t := by
  cases h with
  | none => exact ⟨fun _ => rfl, fun _ => sameAsm_refl s, fun _ => samePkt_refl s, rfl, rfl⟩
  | buffer => exact ⟨fun _ => rfl, fun _ => sameAsm_refl s, fun _ => samePkt_refl s, rfl, rfl⟩
  | bch r htouches =>
    exact ⟨fun h => absurd h (by simp [htouches]), fun _ => sameAsm_refl s, fun _ => samePkt_refl s,
      rfl, rfl⟩
  | regWr r => exact ⟨nofun, nofun, nofun, by cases r <;> rfl, by cases r <;> rfl⟩
  | asmPush => rw [asmPut_frame]; exact keepsUnits_withAsmOf s _ rfl
  | asmFlush => rw [asmFlushLoop_frame]; exact keepsUnits_withAsmOf s _ rfl
  | asmInit => exact keepsUnits_withAsmOf s (asmOpen s) rfl
  | pktPush => rw [pktAccept_frame]; exact keepsUnits_withPktOf s _ rfl
  | pktClear => exact keepsUnits_withPktOf s (discardCarry .cleared s).1 rfl

/-- Writing results and answering leaves the units as the change left them. -/
theorem KeepsUnits.answerOk {i : Instr} {s t : State} (h : KeepsUnits i s t) (vs : List Value)
    (v : Value) (p : Bytes) (e : List Event) :
    KeepsUnits i s (answerOk ((t.withRes s.res).setResFrom 0 vs) v p e) := by
  rw [setResFrom_eq_withRes]
  exact ⟨h.bch, h.asm, h.pkt, h.cfg, h.inputs⟩

/-- Settles O17: a fault changes no unit, each change of `Effect` stays in its own unit
(`Effect.keepsUnits`), and `SRESET` touches all of them. -/
theorem unitsKeepToThemselves : Obligations.UnitsKeepToThemselves := by
  intro i s t hexec
  suffices h : KeepsUnits i s t from ⟨h.bch, h.asm, h.pkt, h.cfg, h.inputs⟩
  by_cases hi : i = .sreset
  · subst hi
    rw [exec_sreset] at hexec
    cases hexec
    exact ⟨nofun, nofun, nofun, rfl, rfl⟩
  · obtain ⟨r, a, -, rfl⟩ | ⟨u, vs, v, p, e, heffect, -, rfl⟩ := exec_cases hi hexec
    · exact ⟨fun _ => rfl, fun _ => sameAsm_refl s, fun _ => samePkt_refl s, rfl, rfl⟩
    · exact heffect.keepsUnits.answerOk vs v p e

end Sys2Proof.Machine
end

section
/-! The invariant between commands (10_state.md R44), taken apart into the open frame, the carry, and
the buffer file: each holds at reset, and each change of `Effect` keeps all of them. -/

namespace Sys2Proof.Machine

/-! ### the parts of the invariant -/

/-- The open frame of an Assembler that has `pending` bytes of a packet still to place: between
commands there are none, and the pointer is a sentinel or at a byte that is placed (10_state.md R40,
R44 (a) to (c)). -/
structure OpenFrame (c : Config) (pending : Nat) (wr fhp : BitVec 11) (frame : Bytes) : Prop where
  wr_lt : wr.toNat < dfLen c
  pointer : fhp.toNat = 0x7FF ∨ fhp.toNat < wr.toNat + pending
  length : frame.length = c.tmFrameSize
  zero : ∀ k, k < 6 ∨ 6 + wr.toNat ≤ k → frame.getD k 0 = 0

/-- `OpenFrame` of the Assembler of a state. -/
def State.FrameOpen (s : State) (pending : Nat) : Prop :=
  OpenFrame s.cfg pending s.asmWr s.asmFhp s.asmFrame

/-- Bytes that do not yet hold the packet they begin. -/
def Incomplete (b : Bytes) : Prop := minPkt ≤ b.length → b.length < declaredSize b

/-- A carry with the target that `pkt_parse_target()` leaves (10_state.md R35, R44 (d) to (f)). -/
structure CarryParsed (carry : Bytes) (target : BitVec 17) (valid : Bool) : Prop where
  incomplete : Incomplete carry
  valid_eq : valid = decide (minPkt ≤ carry.length)
  target_eq : target = if minPkt ≤ carry.length then BitVec.ofNat 17 (declaredSize carry) else 0

/-- `CarryParsed` of the Packetizer of a state. -/
def State.CarryOk (s : State) : Prop := CarryParsed s.pktCarry s.pktTarget s.pktTargetValid

theorem declaredSize_le (b : Bytes) : declaredSize b ≤ 65542 := by
  have hlt := be_lt (slice b 4 2)
  have hpow : 256 ^ (slice b 4 2).length ≤ 256 ^ 2 :=
    Nat.pow_le_pow_right (by norm_num) (by simp)
  unfold declaredSize
  omega

theorem toNat_ofNat_declaredSize (b : Bytes) :
    (BitVec.ofNat 17 (declaredSize b)).toNat = declaredSize b := by
  have := declaredSize_le b
  rw [BitVec.toNat_ofNat, Nat.mod_eq_of_lt (by omega)]

theorem frameOpen_of_inv {s : State} (h : s.Inv) : s.FrameOpen 0 :=
  ⟨h.wr_lt, h.fhp_lt, h.frame_length, h.frame_zero⟩

theorem carryOk_of_inv {s : State} (h : s.Inv) : s.CarryOk := by
  by_cases hlen : 7 ≤ s.pktCarry.length
  · have hvalid := h.valid_iff.2 hlen
    obtain ⟨htarget, hlt⟩ := h.target_eq hvalid
    refine ⟨fun _ => hlt.trans_eq htarget, by simp [hvalid, minPkt, hlen], ?_⟩
    rw [minPkt, if_pos hlen]
    exact BitVec.eq_of_toNat_eq (htarget.trans (toNat_ofNat_declaredSize _).symm)
  · have hvalid : s.pktTargetValid = false := by simpa using mt h.valid_iff.1 hlen
    refine ⟨fun h7 => absurd h7 hlen, by simp [hvalid, minPkt, hlen], ?_⟩
    rw [minPkt, if_neg hlen]
    exact h.target_zero hvalid

theorem inv_of_parts {s : State} (hparams : configValid s.cfg = true) (hframe : s.FrameOpen 0)
    (hcarry : s.CarryOk) (hbufs : Memory.wf s.cfg s.bufs) : s.Inv := by
  obtain ⟨hincomplete, hvalid, htarget⟩ := hcarry
  have hiff : s.pktTargetValid = true ↔ 7 ≤ s.pktCarry.length := by
    rw [hvalid, decide_eq_true_iff, minPkt]
  refine ⟨hparams, hframe.wr_lt, hframe.pointer, fun hwr => ?_, hframe.length, hframe.zero, ?_, hiff,
    fun htrue => ?_, fun hfalse => ?_, hbufs⟩
  · exact hframe.pointer.resolve_right (by simp [hwr])
  · by_cases hlen : 7 ≤ s.pktCarry.length
    · exact (hincomplete hlen).le.trans (declaredSize_le _)
    · omega
  · have hlen := hiff.1 htrue
    rw [htarget, minPkt, if_pos hlen, toNat_ofNat_declaredSize]
    exact ⟨rfl, hincomplete hlen⟩
  · rw [htarget, minPkt, if_neg (mt hiff.2 (by simp [hfalse]))]

/-- The invariant is about the parameters, the open frame, the carry and the buffer file, and no
other part of the state. -/
theorem inv_iff (s : State) :
    s.Inv ↔ configValid s.cfg = true ∧ s.FrameOpen 0 ∧ s.CarryOk ∧ Memory.wf s.cfg s.bufs :=
  ⟨fun h => ⟨h.params, frameOpen_of_inv h, carryOk_of_inv h, h.buffers⟩,
    fun ⟨hparams, hframe, hcarry, hbufs⟩ => inv_of_parts hparams hframe hcarry hbufs⟩

/-! ### reset -/

theorem dfLen_bounds {c : Config} (hc : configValid c = true) : 13 ≤ dfLen c ∧ dfLen c ≤ 2046 := by
  simp only [configValid, Bool.and_eq_true, decide_eq_true_eq] at hc
  obtain ⟨⟨⟨⟨⟨⟨hmin, hmax⟩, -⟩, -⟩, -⟩, -⟩, -⟩ := hc
  exact ⟨hmin, hmax⟩

/-- The data field lies inside the frame. -/
theorem dfStart_add_dfLen_le {c : Config} (hc : configValid c = true) :
    dfStart + dfLen c ≤ c.tmFrameSize := by
  have hmin := (dfLen_bounds hc).1
  unfold dfLen dfEnd at *
  omega

/-- The frame that `asm_open()` leaves has nothing in it. -/
theorem openFrame_empty {c : Config} (hc : configValid c = true) (pending : Nat) :
    OpenFrame c pending 0 0x7FF (List.replicate c.tmFrameSize 0x00) where
  wr_lt := by have := (dfLen_bounds hc).1; simp; omega
  pointer := .inl rfl
  length := by simp
  zero k _ := by
    rw [List.getD_eq_getElem?_getD, List.getElem?_replicate]
    split <;> rfl

theorem incomplete_nil : Incomplete [] := fun hlen => absurd hlen (by decide)

theorem carryParsed_nil : CarryParsed [] 0 false := ⟨incomplete_nil, rfl, rfl⟩

theorem resetFor_inv {c : Config} (hc : configValid c = true) : (State.resetFor c).Inv :=
  inv_of_parts hc (openFrame_empty hc 0) carryParsed_nil (wf_resetFor c)

/-- Settles O1, field by field. -/
theorem resetValues : Obligations.ResetValues := by
  intro c
  have hbuf (i : BufIx) : (State.resetFor c).buf i = [] := by simp [State.buf, State.resetFor]
  exact ⟨rfl, fun i => by simp [State.resetFor], rfl, rfl, hbuf, fun i k => by simp [State.byteAt, hbuf],
    rfl, rfl, rfl, rfl, rfl, rfl, List.length_replicate, fun b hb => List.eq_of_mem_replicate hb,
    rfl, rfl, rfl, rfl, rfl⟩

/-- Settles O2: the parts of the invariant at reset (`resetFor_inv`); the parameters of
`State.reset` are valid. -/
theorem resetMeetsInvariant : Obligations.ResetMeetsInvariant :=
  ⟨fun _ hc => resetFor_inv hc, rfl, resetFor_inv (by decide)⟩

/-! ### the Assembler keeps its part -/

theorem asmCopy_asmWr_toNat {s : State} {d : Bytes} (hc : configValid s.cfg = true)
    (hroom : s.asmWr.toNat + d.length ≤ dfLen s.cfg) :
    (asmCopy d s).asmWr.toNat = s.asmWr.toNat + d.length := by
  have := (dfLen_bounds hc).2
  rw [asmCopy_asmWr, BitVec.toNat_ofNat, Nat.mod_eq_of_lt (by omega)]

/-- Copying bytes that do not fill the frame: the bytes outside the packet bytes placed stay 0. -/
theorem frameOpen_asmCopy {s : State} {d : Bytes} {rest : Nat} (hc : configValid s.cfg = true)
    (h : s.FrameOpen (d.length + rest)) (hroom : s.asmWr.toNat + d.length < dfLen s.cfg) :
    (asmCopy d s).FrameOpen rest := by
  have hwr := asmCopy_asmWr_toNat hc hroom.le
  have hfits : dfStart + s.asmWr.toNat + d.length ≤ s.asmFrame.length := by
    have := dfStart_add_dfLen_le hc
    rw [h.length]
    omega
  refine ⟨hwr ▸ hroom, ?_, (overwrite_length _ _ _ hfits).trans h.length, fun k hk => ?_⟩
  · rw [hwr, Nat.add_assoc]
    exact h.pointer
  · rw [hwr] at hk
    rw [asmCopy_asmFrame, List.getD_eq_getElem?_getD, overwrite_getElem? _ _ _ _ hfits,
      if_neg (by unfold dfStart; omega), ← List.getD_eq_getElem?_getD]
    exact h.zero k (by omega)

theorem frameOpen_asmFinalize {s : State} (hc : configValid s.cfg = true) (pending : Nat) :
    (asmFinalize s).FrameOpen pending := openFrame_empty hc pending

/-- The loop of `asm_put` places every byte that is pending: each turn places one at least. -/
theorem frameOpen_asmFill {fuel : Nat} {d : Bytes} {s : State} (hc : configValid s.cfg = true)
    (hfuel : d.length ≤ fuel) (h : s.FrameOpen d.length) : (asmFill fuel d s).1.FrameOpen 0 := by
  induction fuel generalizing d s with
  | zero => rwa [Nat.le_zero.1 hfuel] at h
  | succ fuel ih =>
    simp only [asmFill]
    generalize hn : min d.length (dfLen s.cfg - s.asmWr.toNat) = n
    have htake : (d.take n).length = n := by rw [List.length_take]; omega
    have hdrop : (d.drop n).length = d.length - n := List.length_drop
    have hwr : (asmCopy (d.take n) s).asmWr.toNat = s.asmWr.toNat + n := by
      rw [asmCopy_asmWr_toNat hc] <;> have := h.wr_lt <;> omega
    split
    case isTrue hnil => subst hnil; exact h
    case isFalse hne =>
      have hpos : 0 < n := by have := List.length_pos_iff.2 hne; have := h.wr_lt; omega
      split
      case isTrue => exact ih hc (by omega) (frameOpen_asmFinalize hc _)
      case isFalse hopen =>
        refine ih hc (by omega) (frameOpen_asmCopy hc ?_ (by have := h.wr_lt; omega))
        rwa [show (d.take n).length + (d.drop n).length = d.length by omega]

/-- `asm_put` of bytes, of which there is one at least for the pointer to point at. -/
theorem frameOpen_asmPut {d : Bytes} {s : State} (hc : configValid s.cfg = true) (hd : 0 < d.length)
    (h : s.FrameOpen 0) : (asmPut d s).1.FrameOpen 0 := by
  unfold asmPut
  split
  case isTrue =>
    have hstart : { s with asmFhp := s.asmWr }.FrameOpen d.length :=
      ⟨h.wr_lt, .inr (Nat.lt_add_of_pos_right hd), h.length, h.zero⟩
    exact frameOpen_asmFill hc (Nat.le_succ _) hstart
  case isFalse =>
    have hstart : s.FrameOpen d.length :=
      ⟨h.wr_lt, h.pointer.imp_right fun hlt => by omega, h.length, h.zero⟩
    exact frameOpen_asmFill hc (Nat.le_succ _) hstart

theorem asmPut_cfg (d : Bytes) (s : State) : (asmPut d s).1.cfg = s.cfg := by
  rw [asmPut_frame]

theorem asmFlushLoop_cfg (fuel : Nat) (s : State) : (asmFlushLoop fuel s).1.cfg = s.cfg := by
  rw [asmFlushLoop_frame]

theorem frameOpen_asmFlushLoop {fuel : Nat} {s : State} (hc : configValid s.cfg = true)
    (h : s.FrameOpen 0) : (asmFlushLoop fuel s).1.FrameOpen 0 := by
  induction fuel generalizing s with
  | zero => exact h
  | succ fuel ih =>
    simp only [asmFlushLoop]
    split
    · exact h
    · refine ih ?_ (frameOpen_asmPut hc (by simp [idlePacket]) h)
      rw [asmPut_cfg]
      exact hc

/-! ### the Packetizer keeps its part -/

theorem carryOk_setCarry {b : Bytes} (h : Incomplete b) (s : State) : (setCarry b s).CarryOk :=
  ⟨by simpa using h, by simp, by simp⟩

theorem carryOk_discardCarry (d : Discard) (s : State) : (discardCarry d s).1.CarryOk :=
  carryOk_setCarry incomplete_nil _

/-- Step 1 of `PKT.PUSH` leaves a carry only where it is short of its target. -/
theorem carryOk_pktLead {s : State} (h : s.CarryOk) (cls : Nat) (lead : Bytes) :
    (pktLead cls lead s).1.CarryOk := by
  unfold pktLead
  split
  · split
    · exact carryOk_discardCarry _ _
    · exact h
  · generalize (if s.pktCarry = [] then setPktStatus orphanBit s else s) = u
    generalize s.pktCarry ++ lead = b
    dsimp only
    split
    · exact carryOk_setCarry incomplete_nil _
    · split
      · exact carryOk_discardCarry _ _
      · split
        · exact carryOk_discardCarry _ _
        · next hdone hover _ =>
          refine carryOk_setCarry (fun hlen => ?_) u
          simp only [setCarry_pktTargetValid, setCarry_pktTarget, setCarry_pktCarry, hlen,
            decide_true, if_true, true_and, toNat_ofNat_declaredSize] at hdone hover
          omega

theorem incomplete_walkPackets_trail (fuel : Nat) (d : Bytes) :
    Incomplete (walkPackets fuel d).2 := by
  induction fuel generalizing d with
  | zero => exact incomplete_nil
  | succ fuel ih =>
    unfold walkPackets
    split
    case isTrue hshort => exact fun hlen => absurd hshort (Nat.not_lt.2 hlen)
    case isFalse =>
      split
      case isTrue => exact ih _
      case isFalse hlong => exact fun _ => Nat.lt_of_not_le hlong

theorem incomplete_tmSplit_trail (c : Config) (f : Bytes) (p : Nat) :
    Incomplete (tmSplit c f p).trail := by
  unfold tmSplit
  split_ifs
  · exact incomplete_nil
  · exact incomplete_nil
  · exact incomplete_walkPackets_trail _ _

theorem carryOk_pktAccept {s : State} (h : s.CarryOk) (cls : Nat) {p : Parts}
    (htrail : Incomplete p.trail) : (pktAccept cls p s).1.CarryOk := by
  unfold pktAccept pktTrail
  split
  · exact h
  · dsimp only
    split
    · exact carryOk_pktLead h cls p.lead
    · exact carryOk_setCarry htrail _

/-! ### every step keeps the invariant -/

theorem inv_withAsmOf {s u : State} (h : s.Inv)
    (hframe : OpenFrame s.cfg 0 u.asmWr u.asmFhp u.asmFrame) : (withAsmOf s u).Inv :=
  have hcarry := carryOk_of_inv h
  inv_of_parts h.params hframe hcarry h.buffers

theorem inv_withPktOf {s u : State} (h : s.Inv) (hcarry : u.CarryOk) : (withPktOf s u).Inv :=
  have hframe := frameOpen_of_inv h
  inv_of_parts h.params hframe hcarry h.buffers

theorem inv_writeReg {s : State} (h : s.Inv) (v : Value) (r : Reg) : (writeReg s v r).Inv := by
  rw [inv_iff] at h ⊢
  cases r <;> exact h

theorem Effect.inv {i : Instr} {s t : State} (heffect : Effect i s t) (h : s.Inv) : t.Inv := by
  have hframe := frameOpen_of_inv h
  have hcarry := carryOk_of_inv h
  cases heffect with
  | none => exact h
  | buffer _ hbd hcap =>
    exact inv_of_parts h.params hframe hcarry (wf_setBuf s _ _ h.buffers hbd (hcap h.buffers))
  | bch => exact inv_of_parts h.params hframe hcarry h.buffers
  | regWr r => exact inv_writeReg h _ r
  | asmPush hlength =>
    have hopen := frameOpen_asmPut h.params (Nat.lt_of_lt_of_le (by decide) hlength) hframe
    rw [State.FrameOpen, asmPut_cfg] at hopen
    rw [asmPut_frame]
    exact inv_withAsmOf h hopen
  | asmFlush =>
    have hopen := frameOpen_asmFlushLoop (fuel := 2) h.params hframe
    rw [State.FrameOpen, asmFlushLoop_cfg] at hopen
    rw [asmFlushLoop_frame]
    exact inv_withAsmOf h hopen
  | asmInit => exact inv_withAsmOf (u := asmOpen s) h (openFrame_empty h.params 0)
  | pktPush =>
    rw [pktAccept_frame]
    exact inv_withPktOf h (carryOk_pktAccept hcarry _ (incomplete_tmSplit_trail _ _ _))
  | pktClear =>
    exact inv_withPktOf (s := s) (u := (discardCarry .cleared s).1) h (carryOk_discardCarry _ s)

/-- The reset input and `SRESET` put the invariant in force, whatever the state was. -/
theorem resetState_inv {s : State} (hc : configValid s.cfg = true) : (resetState s).Inv := by
  have h := resetFor_inv hc
  rw [inv_iff] at h ⊢
  exact h

theorem takeFault_inv {s : State} (h : s.Inv) (r : Reason) (a : Value) : (takeFault s r a).Inv := by
  rw [inv_iff] at h ⊢
  exact h

theorem answerOk_inv {s : State} (h : s.Inv) (v : Value) (p : Bytes) (e : List Event) :
    (answerOk s v p e).Inv := by
  rw [inv_iff] at h ⊢
  exact h

theorem withRes_inv {s : State} (h : s.Inv) (q : Vector Value 16) : (s.withRes q).Inv := by
  rw [inv_iff] at h ⊢
  exact h

theorem exec_inv {i : Instr} {s t : State} (h : s.Inv) (hexec : exec i s = .next t) : t.Inv := by
  by_cases hi : i = .sreset
  · subst hi
    rw [exec_sreset] at hexec
    cases hexec
    exact answerOk_inv (resetState_inv h.params) _ _ _
  · obtain ⟨r, a, -, rfl⟩ | ⟨u, vs, v, p, e, heffect, -, rfl⟩ := exec_cases hi hexec
    · exact takeFault_inv h r a
    · rw [setResFrom_eq_withRes]
      exact answerOk_inv (withRes_inv (withRes_inv (heffect.inv h) _) _) v p e

theorem runCommand_inv {w : CmdWord} {p : Bytes} {s t : State} (h : s.Inv)
    (hrun : runCommand w p s = .next t) : t.Inv := by
  cases hdecode : decode w p with
  | ok i => exact exec_inv h ((runCommand_of_decode_ok hdecode s).symm.trans hrun)
  | error e =>
    simp only [runCommand, hdecode] at hrun
    cases e with
    | reservedNonzero rsv => cases hrun; exact takeFault_inv h _ _
    | undefinedOpcode op => cases hrun; exact takeFault_inv h _ _
    | payloadTooLong n => cases hrun

/-- Settles O3: nothing issued changes nothing, the reset input leaves a reset state
(`resetState_inv`), and a command keeps the invariant (`runCommand_inv`). -/
theorem stepKeepsInvariant : Obligations.StepKeepsInvariant := by
  intro s t h hstep
  have htaken (rest : List HostInput) : { s with inputs := rest }.Inv := by
    rw [inv_iff] at h ⊢
    exact h
  cases hinputs : s.inputs with
  | nil =>
    simp only [step, h.params, hinputs, if_true] at hstep
    cases hstep
    exact h
  | cons input rest =>
    cases input with
    | command w p =>
      exact runCommand_inv (htaken rest) ((step_of_command h.params hinputs).symm.trans hstep)
    | resetInput =>
      simp only [step, h.params, hinputs, if_true] at hstep
      cases hstep
      exact resetState_inv (s := { s with inputs := rest }) h.params

end Sys2Proof.Machine
end

section
/-! The buffer operands of a command: every command checks them all, `bs` before `bd`, before anything
else it does, and nothing it does after that reports `BAD_BUFFER_INDEX` (60_exceptions.md R279). -/

namespace Sys2Proof.Machine

/-! ### the check of all buffer operands -/

/-- Check that the buffers of a list exist, the first one first, and go on with `k`. -/
def checkBufs (s : State) (ops : List BufIx) (k : Completion) : Completion :=
  ops.foldr (usesBuf s) k

theorem usesBuf_of_lt {s : State} {b : BufIx} (hb : b.toNat < s.cfg.nbuf) (k : Completion) :
    usesBuf s b k = k := by rw [usesBuf_eq, if_pos hb]

theorem usesBuf_of_le {s : State} {b : BufIx} (hb : s.cfg.nbuf ≤ b.toNat) (k : Completion) :
    usesBuf s b k = .raised .badBufferIndex (val b.toNat) := by
  rw [usesBuf_eq, if_neg (Nat.not_lt.2 hb)]

theorem checkBufs_of_forall_lt {s : State} {ops : List BufIx}
    (hops : ∀ b ∈ ops, b.toNat < s.cfg.nbuf) (k : Completion) : checkBufs s ops k = k := by
  induction ops with
  | nil => rfl
  | cons b ops ih =>
    obtain ⟨hb, hrest⟩ := List.forall_mem_cons.1 hops
    exact (usesBuf_of_lt hb _).trans (ih hrest)

theorem checkBufs_of_find?_eq_some {s : State} {ops : List BufIx} {b : BufIx}
    (hfind : ops.find? (fun b => decide (s.cfg.nbuf ≤ b.toNat)) = some b) (k : Completion) :
    checkBufs s ops k = .raised .badBufferIndex (val b.toNat) := by
  induction ops with
  | nil => cases hfind
  | cons c ops ih =>
    by_cases hc : s.cfg.nbuf ≤ c.toNat
    · rw [List.find?_cons_of_pos (by simpa using hc)] at hfind
      cases hfind
      exact usesBuf_of_le hc _
    · rw [List.find?_cons_of_neg (by simpa using hc)] at hfind
      exact (usesBuf_of_lt (Nat.lt_of_not_le hc) _).trans (ih hfind)

/-! ### what comes after the check -/

/-- A completion that is no `BAD_BUFFER_INDEX`. -/
def NoBadIndex (k : Completion) : Prop := ∀ a, k ≠ .raised .badBufferIndex a

namespace NoBadIndex

theorem done {t : State} {v : Value} {p : Bytes} {e : List Event} : NoBadIndex (.done t v p e) :=
  nofun

theorem raised {r : Reason} {a : Value} (hr : r ≠ .badBufferIndex) : NoBadIndex (.raised r a) := by
  rintro a' ⟨⟩
  exact hr rfl

theorem require {ok : Bool} {r : Reason} {a : Value} {k : Completion} (hr : r ≠ .badBufferIndex)
    (hk : NoBadIndex k) : NoBadIndex (require ok r a k) := by
  cases ok with
  | true => exact hk
  | false => exact raised hr

theorem byteWidth {y : Scalar} {k : Nat → Completion} (hk : ∀ n, NoBadIndex (k n)) :
    NoBadIndex (byteWidth y k) := require (by decide) (hk _)

theorem bitSpan {s : State} {x y : Scalar} {k : Nat → Nat → Completion}
    (hk : ∀ p w, NoBadIndex (k p w)) : NoBadIndex (bitSpan s x y k) := require (by decide) (hk _ _)

theorem byteValue {x : Scalar} {k : Byte → Completion} (hk : ∀ c, NoBadIndex (k c)) :
    NoBadIndex (byteValue x k) := require (by decide) (hk _)

theorem headerAt {s : State} {i : BufIx} {x : Scalar} {need : Nat} {k : Bytes → Completion}
    (hk : ∀ h, NoBadIndex (k h)) : NoBadIndex (headerAt s i x need k) := require (by decide) (hk _)

theorem memRead {s : State} {i : BufIx} {off n : Nat} {k : Bytes → Completion}
    (hk : ∀ b, NoBadIndex (k b)) : NoBadIndex (memRead s i off n k) := require (by decide) (hk _)

theorem memWrite {s : State} {i : BufIx} {off : Nat} {d : Bytes} {k : State → Completion}
    (hk : ∀ t, NoBadIndex (k t)) : NoBadIndex (memWrite s i off d k) := require (by decide) (hk _)

theorem bitRead {s : State} {i : BufIx} {p w : Nat} {k : Nat → Completion}
    (hk : ∀ n, NoBadIndex (k n)) : NoBadIndex (bitRead s i p w k) := require (by decide) (hk _)

theorem bitWrite {s : State} {i : BufIx} {p w v : Nat} {k : State → Completion}
    (hk : ∀ t, NoBadIndex (k t)) : NoBadIndex (bitWrite s i p w v k) := require (by decide) (hk _)

theorem replaceBuf {s : State} {i : BufIx} {n : Nat} {b : Bytes} {k : State → Completion}
    (hk : ∀ t, NoBadIndex (k t)) : NoBadIndex (replaceBuf s i n b k) := require (by decide) (hk _)

end NoBadIndex

theorem frameCheck_error_ne_badBufferIndex {c : Config} {f : Bytes} {r : Reason} {a : Nat}
    (h : frameCheck c f = .error (r, a)) : r ≠ .badBufferIndex := by
  unfold frameCheck at h
  split_ifs at h <;> cases h <;> decide

theorem cltuValidate_error_ne_badBufferIndex {c : Bytes} {r : Reason} {a : Nat}
    (h : cltuValidate c = .error (r, a)) : r ≠ .badBufferIndex := by
  simp only [cltuValidate] at h
  split_ifs at h
  iterate 4 (cases h; decide)
  split at h <;> cases h
  decide

/-! ### every command -/

/-- `i` checks its buffer operands and nothing before them, and what it then does is no
`BAD_BUFFER_INDEX`. -/
def ChecksOperandsFirst (i : Instr) (s : State) : Prop :=
  ∃ k, NoBadIndex k ∧ exec i s = complete s (checkBufs s (bufOperands i) k)

namespace ChecksOperandsFirst

variable {i : Instr} {s : State} {k : Completion}

theorem of_no_operand (hops : bufOperands i = []) (hexec : exec i s = complete s k)
    (hk : NoBadIndex k) : ChecksOperandsFirst i s := ⟨k, hk, by rw [hops]; exact hexec⟩

theorem of_operand {b : BufIx} (hops : bufOperands i = [b])
    (hexec : exec i s = complete s (usesBuf s b k)) (hk : NoBadIndex k) :
    ChecksOperandsFirst i s := ⟨k, hk, by rw [hops]; exact hexec⟩

theorem of_two_operands {b c : BufIx} (hops : bufOperands i = [b, c])
    (hexec : exec i s = complete s (usesBuf s b (usesBuf s c k))) (hk : NoBadIndex k) :
    ChecksOperandsFirst i s := ⟨k, hk, by rw [hops]; exact hexec⟩

end ChecksOperandsFirst

theorem exec_checksOperandsFirst (i : Instr) (s : State) : ChecksOperandsFirst i s := by
  cases i with
  | nop => exact .of_no_operand rfl rfl .done
  | regRd x =>
    refine .of_no_operand rfl rfl ?_
    cases regAt x with
    | none => exact .raised (by decide)
    | some r => exact .done
  | regWr x v =>
    refine .of_no_operand rfl rfl ?_
    cases regAt x with
    | none => exact .raised (by decide)
    | some r => exact .require (by decide) .done
  | sreset => exact .of_no_operand rfl rfl .done
  | buNew bd x => exact .of_operand rfl rfl <| .replaceBuf fun _ => .done
  | buLoad bd p => exact .of_operand rfl rfl <| .replaceBuf fun _ => .done
  | buLen bs => exact .of_operand rfl rfl .done
  | buSetlen bd x => exact .of_operand rfl rfl <| .replaceBuf fun _ => .done
  | buAppend bd p => exact .of_operand rfl rfl <| .replaceBuf fun _ => .done
  | buGetbits bs x y =>
    exact .of_operand rfl rfl <| .bitSpan fun _ _ => .bitRead fun _ => .done
  | buSetbits bd x y v =>
    exact .of_operand rfl rfl <| .bitSpan fun _ _ => .bitWrite fun _ => .done
  | buGetu bs x y => exact .of_operand rfl rfl <| .byteWidth fun _ => .memRead fun _ => .done
  | buGets bs x y => exact .of_operand rfl rfl <| .byteWidth fun _ => .memRead fun _ => .done
  | buSetu bd x y v =>
    exact .of_operand rfl rfl <| .byteWidth fun _ => .memWrite fun _ => .done
  | buSets bd x y v =>
    exact .of_operand rfl rfl <| .byteWidth fun _ => .memWrite fun _ => .done
  | buGetbytes bs x y => exact .of_operand rfl rfl <| .memRead fun _ => .done
  | buSetbytes bd x p => exact .of_operand rfl rfl <| .memWrite fun _ => .done
  | bchStart => exact .of_no_operand rfl rfl .done
  | bchStep x => exact .of_no_operand rfl rfl <| .byteValue fun _ => .done
  | bchStop => exact .of_no_operand rfl rfl .done
  | cltuEnc bd bs => exact .of_two_operands rfl rfl <| .replaceBuf fun _ => .done
  | cltuDec bd bs =>
    refine .of_two_operands rfl rfl ?_
    cases h : cltuValidate (s.buf bs) with
    | error e => exact .raised (cltuValidate_error_ne_badBufferIndex h)
    | ok k => exact .done
  | cltuChk bs =>
    refine .of_operand rfl rfl ?_
    cases h : cltuValidate (s.buf bs) with
    | error e => exact .raised (cltuValidate_error_ne_badBufferIndex h)
    | ok k => exact .done
  | crcCalc bs x y => exact .of_operand rfl rfl <| .memRead fun _ => .done
  | crcSet bd => exact .of_operand rfl rfl <| .require (by decide) .done
  | crcChk bs =>
    exact .of_operand rfl rfl <| .require (by decide) <| .require (by decide) .done
  | hdrTmf bs x => exact .of_operand rfl rfl <| .headerAt fun _ => .done
  | hdrTcf bs x => exact .of_operand rfl rfl <| .headerAt fun _ => .done
  | hdrPkt bs x => exact .of_operand rfl rfl <| .headerAt fun _ => .done
  | hdrSeg bs x => exact .of_operand rfl rfl <| .headerAt fun _ => .done
  | tmfSplit bs =>
    refine .of_operand rfl rfl ?_
    cases h : frameCheck s.cfg (s.buf bs) with
    | error e => exact .raised (frameCheck_error_ne_badBufferIndex h)
    | ok p => exact .done
  | asmPush bs =>
    exact .of_operand rfl rfl <| .require (by decide) <| .require (by decide) .done
  | asmFlush => exact .of_no_operand rfl rfl .done
  | asmInit => exact .of_no_operand rfl rfl .done
  | pktPush bs =>
    refine .of_operand rfl rfl ?_
    cases h : frameCheck s.cfg (s.buf bs) with
    | error e => exact .raised (frameCheck_error_ne_badBufferIndex h)
    | ok p => exact .done
  | pktClear => exact .of_no_operand rfl rfl .done

theorem exec_of_missing_buffer {i : Instr} {s : State} {b : BufIx}
    (hfind : (bufOperands i).find? (fun b => decide (s.cfg.nbuf ≤ b.toNat)) = some b) :
    exec i s = .next (takeFault s .badBufferIndex (val b.toNat)) := by
  obtain ⟨k, -, hexec⟩ := exec_checksOperandsFirst i s
  rw [hexec, checkBufs_of_find?_eq_some hfind, complete_raised]

theorem reason_ne_badBufferIndex {i : Instr} {s t : State} {r : Response}
    (hops : ∀ b ∈ bufOperands i, b.toNat < s.cfg.nbuf) (ht : exec i s = .next t)
    (hresponse : t.response = some r) : r.reason ≠ .badBufferIndex := by
  obtain ⟨k, hk, hexec⟩ := exec_checksOperandsFirst i s
  rw [hexec, checkBufs_of_forall_lt hops] at ht
  obtain ⟨u, v, p, e, -, rfl⟩ | ⟨r', a, rfl, rfl⟩ := complete_cases ht
  · cases hresponse
    exact nofun
  · cases hresponse
    rintro rfl
    exact hk a rfl

/-- Settles O13: the operands are checked before everything else, in order
(`exec_checksOperandsFirst`); the first that does not exist decides (`exec_of_missing_buffer`), and past the
check no command reports the reason (`reason_ne_badBufferIndex`). -/
theorem badBufferIndexFaults : Obligations.BadBufferIndexFaults :=
  ⟨fun _ _ _ hfind => exec_of_missing_buffer hfind,
    fun _ _ _ _ hops ht hresponse => reason_ne_badBufferIndex hops ht hresponse⟩

end Sys2Proof.Machine
end

section
/-! The buffer file under a command (20_memory.md R73): only the written `bd` changes, and a command
that is not there to change a length overwrites bytes or bits in place. -/

namespace Sys2Proof.Machine

/-! ### bytes -/

/-- A change of `Effect` leaves the buffer file alone or replaces the buffer the command writes. -/
theorem Effect.bufs_cases {i : Instr} {s t : State} (h : Effect i s t) :
    t.bufs = s.bufs ∨ ∃ bd d, writesBuf i = some bd ∧ t = s.setBuf bd d := by
  cases h with
  | none => exact .inl rfl
  | buffer hwrites => exact .inr ⟨_, _, hwrites, rfl⟩
  | bch => exact .inl rfl
  | regWr r => exact .inl (by cases r <;> rfl)
  | asmPush => exact .inl (by rw [asmPut_frame])
  | asmFlush => exact .inl (by rw [asmFlushLoop_frame])
  | asmInit => exact .inl rfl
  | pktPush => exact .inl (by rw [pktAccept_frame]; rfl)
  | pktClear => exact .inl rfl

theorem Effect.byteAt_eq {i : Instr} {s t : State} (h : Effect i s t) {b : BufIx}
    (hb : writesBuf i ≠ some b) (k : Nat) : t.byteAt b k = s.byteAt b k := by
  obtain hbufs | ⟨bd, d, hwrites, rfl⟩ := h.bufs_cases
  · exact byteAt_congr hbufs h.keepsUnits.cfg b k
  · refine byteAt_setBuf_ne s bd b d k ?_
    rintro rfl
    exact hb hwrites

/-- The buffer file after a command other than `SRESET` is the one after its change of `Effect`; a
fault makes none. -/
theorem exec_effect_bufs {i : Instr} {s u : State} (hi : i ≠ .sreset) (h : exec i s = .next u) :
    ∃ t, Effect i s t ∧ u.bufs = t.bufs ∧ u.cfg = t.cfg := by
  obtain ⟨r, a, -, rfl⟩ | ⟨t, vs, v, p, e, heffect, -, rfl⟩ := exec_cases hi h
  · exact ⟨s, .none, rfl, rfl⟩
  · rw [setResFrom_eq_withRes]
    exact ⟨t, heffect, rfl, rfl⟩

/-! ### lengths -/

/-- Every buffer is as long in `t` as in `s`. -/
def SameLengths (s t : State) : Prop := ∀ b, (t.buf b).length = (s.buf b).length

theorem sameLengths_of_bufs {s t : State} (h : t.bufs = s.bufs) : SameLengths s t := fun b => by
  simp only [State.buf, h]

theorem sameLengths_setBuf {s : State} {bd : BufIx} {d : Bytes}
    (hd : d.length = (s.buf bd).length) : SameLengths s (s.setBuf bd d) := fun b => by
  rw [buf_setBuf]
  split
  case isTrue heq => rw [hd, heq]
  case isFalse => rfl

/-- If the completion is `OK`, the state it leaves has the lengths of `s`. -/
def KeepsLengths (s : State) (c : Completion) : Prop :=
  ∀ t v p e, c = .done t v p e → SameLengths s t

namespace KeepsLengths

variable {s : State} {bd : BufIx}

theorem finish {t : State} (h : SameLengths s t) : KeepsLengths s (finish t) := by
  rintro _ _ _ _ ⟨⟩
  exact h

theorem require {ok : Bool} {r : Reason} {a : Value} {k : Completion}
    (hk : ok = true → KeepsLengths s k) : KeepsLengths s (require ok r a k) := by
  intro t v p e hdone
  obtain ⟨hok, hend⟩ := require_done.1 hdone
  exact hk hok t v p e hend

theorem usesBuf {k : Completion} (hk : KeepsLengths s k) : KeepsLengths s (usesBuf s bd k) :=
  require fun _ => hk

theorem byteWidth {y : Scalar} {k : Nat → Completion} (hk : ∀ n, KeepsLengths s (k n)) :
    KeepsLengths s (byteWidth y k) := require fun _ => hk _

theorem bitSpan {x y : Scalar} {k : Nat → Nat → Completion} (hk : ∀ p w, KeepsLengths s (k p w)) :
    KeepsLengths s (bitSpan s x y k) := require fun _ => hk _ _

theorem memWrite {off : Nat} {d : Bytes} : KeepsLengths s (memWrite s bd off d Machine.finish) :=
  require fun hfits =>
    finish (sameLengths_setBuf (overwrite_length _ _ _ (of_decide_eq_true hfits)))

theorem bitWrite {p w v : Nat} : KeepsLengths s (bitWrite s bd p w v Machine.finish) :=
  require fun _ => finish (sameLengths_setBuf (setBitField_length _ _ _ _))

theorem sameLengths {c : Completion} {t : State} (h : KeepsLengths s c)
    (ht : complete s c = .next t) : SameLengths s t := by
  obtain ⟨u, v, p, e, hdone, rfl⟩ | ⟨r, a, -, rfl⟩ := complete_cases ht
  · exact h u v p e hdone
  · exact sameLengths_of_bufs rfl

end KeepsLengths

/-- The five commands that write a buffer in place; every other command writes none or is one of those
that may change a length. -/
theorem exec_sameLengths_of_writesBuf {i : Instr} {s t : State} {bd : BufIx}
    (hwrites : writesBuf i = some bd) (hlength : changesLength i = false)
    (ht : exec i s = .next t) : SameLengths s t := by
  cases i with
  | buSetbits b x y v =>
    exact KeepsLengths.sameLengths (.usesBuf <| .bitSpan fun _ _ => .bitWrite) ht
  | buSetu b x y v =>
    exact KeepsLengths.sameLengths (.usesBuf <| .byteWidth fun _ => .memWrite) ht
  | buSets b x y v =>
    exact KeepsLengths.sameLengths (.usesBuf <| .byteWidth fun _ => .memWrite) ht
  | buSetbytes b x p => exact KeepsLengths.sameLengths (.usesBuf .memWrite) ht
  | crcSet b =>
    refine KeepsLengths.sameLengths (.usesBuf <| .require fun hfits => .finish ?_) ht
    exact sameLengths_setBuf (withCrc_length _ (of_decide_eq_true hfits))
  | _ => cases hwrites <;> cases hlength

theorem exec_sameLengths {i : Instr} {s t : State} (hi : i ≠ .sreset)
    (hlength : changesLength i = false) (ht : exec i s = .next t) : SameLengths s t := by
  obtain ⟨u, heffect, hbufs, -⟩ := exec_effect_bufs hi ht
  obtain hsame | ⟨bd, d, hwrites, -⟩ := heffect.bufs_cases
  · exact sameLengths_of_bufs (hbufs.trans hsame)
  · exact exec_sameLengths_of_writesBuf hwrites hlength ht

theorem buf_resetState (s : State) (b : BufIx) : (resetState s).buf b = [] := by
  simp [State.buf, resetState, State.resetFor]

/-- Settles O16: the bytes by the change of `Effect` that the command makes (`Effect.byteAt_eq`), the
lengths because a command that may not change one writes in place (`exec_sameLengths`), and `SRESET`
by the reset values. -/
theorem buffersWrittenThroughBd : Obligations.BuffersWrittenThroughBd := by
  intro i s t ht
  refine ⟨fun hi => ⟨fun b k hb => ?_, fun hlength => exec_sameLengths hi hlength ht⟩, ?_⟩
  · obtain ⟨u, heffect, hbufs, hcfg⟩ := exec_effect_bufs hi ht
    exact (byteAt_congr hbufs hcfg b k).trans (heffect.byteAt_eq hb k)
  · rintro rfl b
    rw [exec_sreset] at ht
    cases ht
    exact buf_resetState s b

end Sys2Proof.Machine
end

section
/-! The command word: its fields as numbers, its bytes from its fields, and the decoder as a relation
between a word and the command it selects (30_encoding.md R90 to R97). -/

namespace Sys2Proof.Machine

/-! ### a byte sequence is told by its length and its big-endian number -/

theorem toBe_eq_of_be {v n : Nat} {s : Bytes} (hlength : s.length = n) (hbe : be s = v % 256 ^ n) :
    toBe v n = s := by
  have hroundtrip : toBe (be (toBe v n)) n = toBe v n := by simpa using toBe_be (toBe v n)
  rw [← hroundtrip, be_toBe, ← hbe, ← hlength, toBe_be]

end Sys2Proof.Machine

namespace Sys2Proof

open Machine

/-! ### packing and unpacking a word -/

theorem toNat_append_eq {m n : Nat} (a : BitVec m) (b : BitVec n) :
    (a ++ b).toNat = a.toNat * 2 ^ n + b.toNat := by
  rw [BitVec.toNat_append, ← Nat.shiftLeft_add_eq_or_of_lt b.isLt, Nat.shiftLeft_eq]

theorem packFields_toNat (f : Fields) :
    (packFields f).toNat =
      f.op.toNat * 2 ^ 152 + f.bd.toNat * 2 ^ 148 + f.bs.toNat * 2 ^ 144 + f.rsv.toNat * 2 ^ 128 +
        f.x.toNat * 2 ^ 96 + f.y.toNat * 2 ^ 64 + f.v.toNat := by
  simp only [packFields, toNat_append_eq]
  ring

theorem fieldsOf_packFields (f : Fields) : fieldsOf (packFields f) = f := by
  obtain ⟨op, bd, bs, rsv, x, y, v⟩ := f
  simp only [fieldsOf, Fields.mk.injEq]
  refine ⟨?_, ?_, ?_, ?_, ?_, ?_, ?_⟩ <;>
    · apply BitVec.eq_of_toNat_eq
      rw [BitVec.extractLsb'_toNat, packFields_toNat, Nat.shiftRight_eq_div_pow]
      dsimp only
      omega

theorem packFields_fieldsOf (w : CmdWord) : packFields (fieldsOf w) = w := by
  apply BitVec.eq_of_toNat_eq
  rw [packFields_toNat]
  simp only [fieldsOf, BitVec.extractLsb'_toNat, Nat.shiftRight_eq_div_pow]
  omega

theorem fieldsOf_rsv_toNat (w : CmdWord) : (fieldsOf w).rsv.toNat = w.toNat / 2 ^ 128 % 2 ^ 16 := by
  simp only [fieldsOf, BitVec.extractLsb'_toNat, Nat.shiftRight_eq_div_pow]

theorem fieldsOf_op_toNat (w : CmdWord) : (fieldsOf w).op.toNat = w.toNat / 2 ^ 152 := by
  simp only [fieldsOf, BitVec.extractLsb'_toNat, Nat.shiftRight_eq_div_pow]
  omega

theorem be_wordBytes (w : CmdWord) : be (wordBytes w) = w.toNat := by
  rw [wordBytes, be_toBe]
  exact Nat.mod_eq_of_lt (by have := w.isLt; norm_num at this ⊢; exact this)

theorem wordBytes_packFields (f : Fields) :
    wordBytes (packFields f) =
      [f.op, BitVec.ofNat 8 (f.bd.toNat * 16 + f.bs.toNat)] ++ toBe f.rsv.toNat 2 ++
        toBe f.x.toNat 4 ++ toBe f.y.toNat 4 ++ toBe f.v.toNat 8 := by
  apply toBe_eq_of_be
  · simp
  · have hword := (packFields f).isLt
    rw [packFields_toNat] at hword ⊢
    simp only [be_append, be_pair, be_toBe, toBe_length, BitVec.toNat_ofNat]
    omega

theorem decodeBytes_of_length_ne {b : Bytes} (hb : b.length ≠ 20) (p : Bytes) :
    decodeBytes b p = .error (.notTwentyBytes b.length) := if_neg hb

/-- Settles O5: the bytes are the base-256 digits of the packed number (`wordBytes_packFields`), and
packing and unpacking undo each other. -/
theorem wordLayout : Obligations.WordLayout :=
  ⟨fun f => ⟨wordBytes_packFields f, fieldsOf_packFields f⟩,
    fun w => ⟨be_wordBytes w, packFields_fieldsOf w⟩,
    fun _ p hb => decodeBytes_of_length_ne hb p⟩

/-! ### the decoder as a relation -/

theorem wellFormed_eq_payloadFits (i : Instr) : i.wellFormed = payloadFits i.payload := by
  cases i <;> rfl

theorem payloadFits_iff (p : Bytes) : payloadFits p = true ↔ p.length < 2 ^ 32 := decide_eq_true_iff

theorem encodeFields_rsv (i : Instr) : (encodeFields i).rsv = 0 := by cases i <;> rfl

theorem definedOpcode_encodeFields (i : Instr) :
    definedOpcode (encodeFields i).op.toNat = true := by cases i <;> rfl

/-- The word with fields `f` and the payload `p` beside it ask for `i`: they agree with the word of `i`
on the fields that `i` uses, and the payload is that of `i` where `i` uses one (30_encoding.md R94,
R96). -/
structure AsksFor (i : Instr) (f : Fields) (p : Bytes) : Prop where
  fields : AgreeOn (fieldUse i) (encodeFields i) f
  payload : (fieldUse i).payload = true → p = i.payload

theorem agreeOn_refl (u : FieldUse) (f : Fields) : AgreeOn u f f :=
  ⟨rfl, rfl, fun _ => rfl, fun _ => rfl, fun _ => rfl, fun _ => rfl, fun _ => rfl⟩

theorem agreeOn_trans {u : FieldUse} {f g h : Fields} (hfg : AgreeOn u f g) (hgh : AgreeOn u g h) :
    AgreeOn u f h := by
  obtain ⟨hop, hrsv, hbd, hbs, hx, hy, hv⟩ := hfg
  obtain ⟨hop', hrsv', hbd', hbs', hx', hy', hv'⟩ := hgh
  exact ⟨hop.trans hop', hrsv.trans hrsv', fun uses => (hbd uses).trans (hbd' uses),
    fun uses => (hbs uses).trans (hbs' uses), fun uses => (hx uses).trans (hx' uses),
    fun uses => (hy uses).trans (hy' uses), fun uses => (hv uses).trans (hv' uses)⟩

theorem asksFor_encodeFields (i : Instr) : AsksFor i (encodeFields i) i.payload :=
  ⟨agreeOn_refl _ _, fun _ => rfl⟩

theorem AsksFor.rsv_eq_zero {i : Instr} {f : Fields} {p : Bytes} (h : AsksFor i f p) : f.rsv = 0 := by
  obtain ⟨⟨-, hrsv, -⟩, -⟩ := h
  exact hrsv.symm.trans (encodeFields_rsv i)

theorem AsksFor.definedOpcode {i : Instr} {f : Fields} {p : Bytes} (h : AsksFor i f p) :
    definedOpcode f.op.toNat = true := by
  obtain ⟨⟨hop, -⟩, -⟩ := h
  exact hop ▸ definedOpcode_encodeFields i

/-- The operation code picks the row, and the row reads off only fields that agree with those of `i`. -/
theorem AsksFor.selectOp_eq {i : Instr} {f : Fields} {p : Bytes} (h : AsksFor i f p) :
    selectOp f p = some i := by
  obtain ⟨op, bd, bs, rsv, x, y, v⟩ := f
  obtain ⟨⟨hop, -, hbd, hbs, hx, hy, hv⟩, hpayload⟩ := h
  cases i <;>
    · cases hop
      simp_all [selectOp, encodeFields, fieldUse, Instr.payload]

/-- Each row of the opcode map reads off the word exactly the fields that `fieldUse` lists. -/
theorem asksFor_of_selectOp {i : Instr} {f : Fields} {p : Bytes} (hrsv : f.rsv = 0)
    (h : selectOp f p = some i) : AsksFor i f p := by
  unfold selectOp at h
  split at h <;> cases h
  all_goals
    next hop =>
      refine ⟨⟨(BitVec.eq_of_toNat_eq hop).symm, ?_⟩, ?_⟩ <;>
        simp [fieldUse, encodeFields, hrsv, Instr.payload]

theorem decode_of_rsv_ne_zero {w : CmdWord} {p : Bytes} (hp : payloadFits p = true)
    (hrsv : (fieldsOf w).rsv ≠ 0) : decode w p = .error (.reservedNonzero (fieldsOf w).rsv) := by
  simp only [decode, hp, if_true, if_neg hrsv]

theorem decode_of_selectOp_eq_none {w : CmdWord} {p : Bytes} (hp : payloadFits p = true)
    (hrsv : (fieldsOf w).rsv = 0) (h : selectOp (fieldsOf w) p = none) :
    decode w p = .error (.undefinedOpcode (fieldsOf w).op) := by
  simp [decode, hp, hrsv, h]

/-- A word decodes to a command exactly when it asks for it. -/
theorem decode_eq_ok_iff {w : CmdWord} {p : Bytes} {i : Instr} :
    decode w p = .ok i ↔ payloadFits p = true ∧ AsksFor i (fieldsOf w) p := by
  constructor
  · intro h
    by_cases hp : payloadFits p = true
    · by_cases hrsv : (fieldsOf w).rsv = 0
      · cases hselect : selectOp (fieldsOf w) p with
        | none => rw [decode_of_selectOp_eq_none hp hrsv hselect] at h; cases h
        | some j =>
          simp only [decode, hp, hrsv, hselect, if_true] at h
          cases h
          exact ⟨hp, asksFor_of_selectOp hrsv hselect⟩
      · rw [decode_of_rsv_ne_zero hp hrsv] at h; cases h
    · simp [decode, hp] at h
  · rintro ⟨hp, hasks⟩
    simp [decode, hp, hasks.rsv_eq_zero, hasks.selectOp_eq]

/-! ### decode after encode -/

theorem decode_encode {i : Instr} (hi : i.wellFormed = true) : decode (encode i) i.payload = .ok i := by
  rw [decode_eq_ok_iff, encode, fieldsOf_packFields]
  exact ⟨(wellFormed_eq_payloadFits i).symm.trans hi, asksFor_encodeFields i⟩

theorem decodeBytes_wordBytes {w : CmdWord} {p : Bytes} {i : Instr} (h : decode w p = .ok i) :
    decodeBytes (wordBytes w) p = .ok i := by
  have hlength : (wordBytes w).length = 20 := toBe_length _ _
  simp [decodeBytes, hlength, be_wordBytes, h]

/-- Settles O4: the fields come back from the packed word, and a command's own word asks for it
(`decode_encode`); the 20 bytes hold that word (`decodeBytes_wordBytes`). -/
theorem decodeEncodeAgree : Obligations.DecodeEncodeAgree := fun _ hi =>
  ⟨decode_encode hi, toBe_length _ _, decodeBytes_wordBytes (decode_encode hi)⟩

/-- Settles O6: each word is the encoding of its command. -/
theorem specWordsDecode : Obligations.SpecWordsDecode :=
  ⟨decode_encode (i := .nop) rfl, decode_encode (i := .regWr 0x20 0x123) rfl,
    decode_encode (i := .buGetbits 0 0x25 0xb) rfl, decode_encode (i := .buSetu 2 4 2 0) rfl,
    decode_encode (i := .bchStep 0x41) rfl, decode_encode (i := .cltuEnc 1 0) rfl,
    decode_encode (i := .crcCalc 3 1 9) rfl, decode_encode (i := .hdrPkt 2 7) rfl,
    decode_encode (i := .asmPush 1) rfl, decode_encode (i := .pktClear) rfl⟩

end Sys2Proof
end

section
/-! What the command port does with a word that is no command, and with two words that ask for the same
command (30_encoding.md R95, R96). -/

namespace Sys2Proof.Machine

theorem step_of_decode_error {s : State} {w : CmdWord} {p : Bytes} {rest : List HostInput}
    {e : WordReject} (hvalid : configValid s.cfg = true) (hinputs : s.inputs = .command w p :: rest)
    (hdecode : decode w p = .error e) : step s = rejectWord { s with inputs := rest } e := by
  rw [step_of_command hvalid hinputs]
  simp only [runCommand, hdecode]

theorem fieldsOf_rsv_eq_zero_iff (w : CmdWord) :
    (fieldsOf w).rsv = 0 ↔ w.toNat / 2 ^ 128 % 2 ^ 16 = 0 := by
  rw [← fieldsOf_rsv_toNat]
  exact BitVec.toNat_inj.symm

theorem selectOp_eq_none_of_undefined {f : Fields} (p : Bytes) (hrsv : f.rsv = 0)
    (hop : definedOpcode f.op.toNat = false) : selectOp f p = none := by
  rw [Option.eq_none_iff_forall_not_mem]
  intro i hi
  have hdefined := (asksFor_of_selectOp hrsv hi).definedOpcode
  simp [hop] at hdefined

/-- Settles O8: an operation code that no command has selects none
(`selectOp_eq_none_of_undefined`), so the word is refused and the fault taken. -/
theorem undefinedOpcodesFault : Obligations.UndefinedOpcodesFault := by
  intro s w p rest hvalid hinputs hp hrsv hop
  rw [← fieldsOf_rsv_eq_zero_iff] at hrsv
  rw [← fieldsOf_op_toNat] at hop ⊢
  have hdecode := decode_of_selectOp_eq_none ((payloadFits_iff p).2 hp) hrsv
    (selectOp_eq_none_of_undefined p hrsv hop)
  rw [step_of_decode_error hvalid hinputs hdecode, BitVec.ofNat_toNat]
  rfl

theorem step_of_rsv_ne_zero {s : State} {w : CmdWord} {p : Bytes} {rest : List HostInput}
    (hvalid : configValid s.cfg = true) (hinputs : s.inputs = .command w p :: rest)
    (hp : payloadFits p = true) (hrsv : (fieldsOf w).rsv ≠ 0) :
    step s = .next (takeFault { s with inputs := rest } .reservedNonzero
      (BitVec.ofNat 64 (fieldsOf w).rsv.toNat)) := by
  rw [step_of_decode_error hvalid hinputs (decode_of_rsv_ne_zero hp hrsv), BitVec.ofNat_toNat]
  rfl

theorem decode_of_agreeOn {w w' : CmdWord} {p p' : Bytes} {i : Instr} (hdecode : decode w p = .ok i)
    (hfields : AgreeOn (fieldUse i) (fieldsOf w) (fieldsOf w')) (hp' : payloadFits p' = true)
    (hpayload : (fieldUse i).payload = true → p' = p) : decode w' p' = .ok i := by
  obtain ⟨-, hasks⟩ := decode_eq_ok_iff.1 hdecode
  exact decode_eq_ok_iff.2 ⟨hp', agreeOn_trans hasks.fields hfields,
    fun huses => (hpayload huses).trans (hasks.payload huses)⟩

/-- Settles O9: a reserved field that is not 0 is found before anything else (`step_of_rsv_ne_zero`), and
a word that agrees with one that decodes asks for the same command (`decode_of_agreeOn`). -/
theorem reservedAndUnusedFields : Obligations.ReservedAndUnusedFields := by
  refine ⟨fun s w p rest hvalid hinputs hp hrsv => ?_,
    fun s w w' p p' i hdecode hfields hp' hpayload => ?_⟩
  · rw [ne_eq, ← fieldsOf_rsv_eq_zero_iff] at hrsv
    rw [← fieldsOf_rsv_toNat]
    exact step_of_rsv_ne_zero hvalid hinputs ((payloadFits_iff p).2 hp) hrsv
  · have hdecode' := decode_of_agreeOn hdecode hfields ((payloadFits_iff p').2 hp') hpayload
    exact ⟨hdecode', by rw [runCommand_of_decode_ok hdecode', runCommand_of_decode_ok hdecode]⟩

end Sys2Proof.Machine
end

section
/-! The form of a response (30_encoding.md R98, R99, R101; 60_exceptions.md R281). -/

namespace Sys2Proof.Machine

/-- A completion gives `i` a response of the form of R98: a fault has a reason other than `none`; with `OK`
the value is `RES[0]` unless `i` is `REG.RD`, only `BU.GETBYTES` has a payload, and only the commands of
`mayEmit` have events. -/
inductive InForm (i : Instr) : Completion → Prop
  | raised {r : Reason} {a : Value} (hfault : statusOf r ≠ .ok) : InForm i (.raised r a)
  | done {t : State} {v : Value} {p : Bytes} {e : List Event}
      (hvalue : (∀ x, i ≠ .regRd x) → v = t.res[0])
      (hpayload : p ≠ [] → ∃ bs x y, i = .buGetbytes bs x y)
      (hevents : e ≠ [] → mayEmit i = true) : InForm i (.done t v p e)

namespace InForm

variable {i : Instr} {s : State} {k : Completion}

theorem finishEvents {t : State} {e : List Event} (hi : mayEmit i = true) :
    InForm i (finishEvents t e) := .done (fun _ => rfl) (absurd rfl) fun _ => hi

theorem finish {t : State} : InForm i (finish t) := .done (fun _ => rfl) (absurd rfl) (absurd rfl)

theorem require {ok : Bool} {r : Reason} {a : Value} (hfault : statusOf r ≠ .ok)
    (hk : InForm i k) : InForm i (require ok r a k) := by
  cases ok with
  | true => exact hk
  | false => exact .raised hfault

theorem usesBuf {b : BufIx} (hk : InForm i k) : InForm i (usesBuf s b k) := require (by decide) hk

theorem byteWidth {y : Scalar} {k : Nat → Completion} (hk : ∀ n, InForm i (k n)) :
    InForm i (byteWidth y k) := require (by decide) (hk _)

theorem bitSpan {x y : Scalar} {k : Nat → Nat → Completion} (hk : ∀ p w, InForm i (k p w)) :
    InForm i (bitSpan s x y k) := require (by decide) (hk _ _)

theorem byteValue {x : Scalar} {k : Byte → Completion} (hk : ∀ c, InForm i (k c)) :
    InForm i (byteValue x k) := require (by decide) (hk _)

theorem headerAt {b : BufIx} {x : Scalar} {need : Nat} {k : Bytes → Completion}
    (hk : ∀ h, InForm i (k h)) : InForm i (headerAt s b x need k) := require (by decide) (hk _)

theorem memRead {b : BufIx} {off n : Nat} {k : Bytes → Completion} (hk : ∀ d, InForm i (k d)) :
    InForm i (memRead s b off n k) := require (by decide) (hk _)

theorem memWrite {b : BufIx} {off : Nat} {d : Bytes} {k : State → Completion}
    (hk : ∀ t, InForm i (k t)) : InForm i (memWrite s b off d k) := require (by decide) (hk _)

theorem bitRead {b : BufIx} {p w : Nat} {k : Nat → Completion} (hk : ∀ n, InForm i (k n)) :
    InForm i (bitRead s b p w k) := require (by decide) (hk _)

theorem bitWrite {b : BufIx} {p w v : Nat} {k : State → Completion} (hk : ∀ t, InForm i (k t)) :
    InForm i (bitWrite s b p w v k) := require (by decide) (hk _)

theorem replaceBuf {b : BufIx} {n : Nat} {d : Bytes} {k : State → Completion}
    (hk : ∀ t, InForm i (k t)) : InForm i (replaceBuf s b n d k) := require (by decide) (hk _)

end InForm

theorem exec_inForm (i : Instr) (s : State) : ∃ k, exec i s = complete s k ∧ InForm i k := by
  cases i with
  | nop | sreset | bchStart | bchStop | asmInit => exact ⟨_, rfl, .finish⟩
  | asmFlush | pktClear => exact ⟨_, rfl, .finishEvents rfl⟩
  | regRd x =>
    refine ⟨_, rfl, ?_⟩
    cases regAt x with
    | none => exact .raised (by decide)
    | some r => exact .done (fun hi => absurd rfl (hi x)) (absurd rfl) (absurd rfl)
  | regWr x v =>
    refine ⟨_, rfl, ?_⟩
    cases regAt x with
    | none => exact .raised (by decide)
    | some r => exact .require (by decide) .finish
  | bchStep => exact ⟨_, rfl, .byteValue fun _ => .finish⟩
  | buLen => exact ⟨_, rfl, .usesBuf .finish⟩
  | buNew | buLoad | buSetlen | buAppend =>
    exact ⟨_, rfl, .usesBuf <| .replaceBuf fun _ => .finish⟩
  | cltuEnc => exact ⟨_, rfl, .usesBuf <| .usesBuf <| .replaceBuf fun _ => .finish⟩
  | buGetbits => exact ⟨_, rfl, .usesBuf <| .bitSpan fun _ _ => .bitRead fun _ => .finish⟩
  | buSetbits => exact ⟨_, rfl, .usesBuf <| .bitSpan fun _ _ => .bitWrite fun _ => .finish⟩
  | buGetu | buGets => exact ⟨_, rfl, .usesBuf <| .byteWidth fun _ => .memRead fun _ => .finish⟩
  | buSetu | buSets => exact ⟨_, rfl, .usesBuf <| .byteWidth fun _ => .memWrite fun _ => .finish⟩
  | buGetbytes =>
    exact ⟨_, rfl, .usesBuf <| .memRead fun _ =>
      .done (fun _ => rfl) (fun _ => ⟨_, _, _, rfl⟩) (absurd rfl)⟩
  | buSetbytes => exact ⟨_, rfl, .usesBuf <| .memWrite fun _ => .finish⟩
  | crcCalc => exact ⟨_, rfl, .usesBuf <| .memRead fun _ => .finish⟩
  | crcSet => exact ⟨_, rfl, .usesBuf <| .require (by decide) .finish⟩
  | crcChk => exact ⟨_, rfl, .usesBuf <| .require (by decide) <| .require (by decide) .finish⟩
  | hdrTmf | hdrTcf | hdrPkt | hdrSeg =>
    exact ⟨_, rfl, .usesBuf <| .headerAt fun _ => .finish⟩
  | asmPush =>
    exact ⟨_, rfl, .usesBuf <| .require (by decide) <| .require (by decide) <| .finishEvents rfl⟩
  | cltuDec bd bs =>
    refine ⟨_, rfl, .usesBuf <| .usesBuf ?_⟩
    cases h : cltuValidate (s.buf bs) with
    | error e => exact .raised (statusOf_cltuValidate_error h)
    | ok k => exact .finish
  | cltuChk bs =>
    refine ⟨_, rfl, .usesBuf ?_⟩
    cases h : cltuValidate (s.buf bs) with
    | error e => exact .raised (statusOf_cltuValidate_error h)
    | ok k => exact .finish
  | tmfSplit bs | pktPush bs =>
    refine ⟨_, rfl, .usesBuf ?_⟩
    cases h : frameCheck s.cfg (s.buf bs) with
    | error e => exact .raised (statusOf_frameCheck_error h)
    | ok p => exact .finishEvents rfl

theorem statusCode_le (st : Status) : (statusCode st).toNat ≤ 6 := by cases st <;> decide

theorem statusOf_eq_ok_iff (r : Reason) : statusOf r = .ok ↔ r = .none := by
  cases r <;> decide

theorem reasonCode_eq_zero_iff (r : Reason) : reasonCode r = 0 ↔ r = .none := by
  cases r <;> decide

/-- Settles O18: every completion is in the form of R98 (`exec_inForm`), and the status a reason belongs to
is `OK` for the reason `none` alone. -/
theorem responseForm : Obligations.ResponseForm := by
  intro i s t ht
  obtain ⟨k, hexec, hform⟩ := exec_inForm i s
  rw [hexec] at ht
  cases hform with
  | @raised r a hfault =>
    cases ht
    have hreason : r ≠ .none := fun h => hfault ((statusOf_eq_ok_iff r).2 h)
    exact ⟨_, rfl, statusCode_le _, statusOf_eq_ok_iff r,
      (statusOf_eq_ok_iff r).trans (reasonCode_eq_zero_iff r).symm, rfl,
      fun hok => absurd hok hfault, absurd rfl, absurd rfl⟩
  | done hvalue hpayload hevents =>
    cases ht
    exact ⟨_, rfl, statusCode_le _, statusOf_eq_ok_iff .none,
      (statusOf_eq_ok_iff .none).trans (reasonCode_eq_zero_iff .none).symm, rfl,
      fun _ => hvalue, fun h => ⟨rfl, hpayload h⟩, fun h => ⟨rfl, hevents h⟩⟩

end Sys2Proof.Machine
end

section
/-! The canonical byte form of a response: each part of it has a length that is fixed or that a field
before it gives, so the parts are read back one after the other (30_encoding.md R98, R100). -/

namespace Sys2Proof.Machine

theorem statusCode_injective : Function.Injective statusCode :=
  Function.LeftInverse.injective (g := fun c => Status.ofNat c.toNat) fun st => by cases st <;> rfl

theorem reasonCode_injective : Function.Injective reasonCode :=
  Function.LeftInverse.injective (g := fun c => Reason.ofNat c.toNat) fun r => by cases r <;> rfl

theorem eventCode_injective : Function.Injective eventCode :=
  Function.LeftInverse.injective (g := fun c => EventKind.ofNat (c.toNat - 1)) fun k => by
    cases k <;> rfl

/-- A 4-bit code is told by the byte that holds it. -/
theorem zeroExtend_byte_injective :
    Function.Injective (BitVec.zeroExtend 8 : BitVec 4 → Byte) := by
  intro c c' h
  have hlow := congrArg (BitVec.setWidth 4) h
  simpa using hlow

theorem eq_of_toBe_eq {v v' n : Nat} (hv : v < 256 ^ n) (hv' : v' < 256 ^ n)
    (h : toBe v n = toBe v' n) : v = v' := by
  have hbe := congrArg be h
  rwa [be_toBe, be_toBe, Nat.mod_eq_of_lt hv, Nat.mod_eq_of_lt hv'] at hbe

theorem toBe_append_inj {v v' n : Nat} {t t' : Bytes} (hv : v < 256 ^ n) (hv' : v' < 256 ^ n)
    (h : toBe v n ++ t = toBe v' n ++ t') : v = v' ∧ t = t' := by
  obtain ⟨hnumber, htail⟩ := List.append_inj h (by simp)
  exact ⟨eq_of_toBe_eq hv hv' hnumber, htail⟩

/-- Bytes with their length before them are told from what follows. -/
theorem lengthFramed_append_inj {d d' t t' : Bytes} (hd : d.length < 2 ^ 32) (hd' : d'.length < 2 ^ 32)
    (h : toBe d.length 4 ++ (d ++ t) = toBe d'.length 4 ++ (d' ++ t')) : d = d' ∧ t = t' := by
  obtain ⟨hlength, htail⟩ := toBe_append_inj hd hd' h
  exact List.append_inj htail hlength

theorem eventBytes_append_inj {e e' : Event} {t t' : Bytes} (he : e.data.length < 2 ^ 32)
    (he' : e'.data.length < 2 ^ 32) (h : eventBytes e ++ t = eventBytes e' ++ t') :
    e = e' ∧ t = t' := by
  simp only [eventBytes, List.cons_append, List.nil_append, List.append_assoc, List.cons.injEq] at h
  obtain ⟨hkind, hinfo, hrest⟩ := h
  obtain ⟨hdata, htail⟩ := lengthFramed_append_inj he he' hrest
  have hkind := eventCode_injective (zeroExtend_byte_injective hkind)
  exact ⟨(Event.mk.injEq ..).mpr ⟨hkind, hinfo, hdata⟩, htail⟩

theorem eq_of_flatMap_eventBytes_eq {es es' : List Event} (hlength : es.length = es'.length)
    (hes : ∀ e ∈ es, e.data.length < 2 ^ 32) (hes' : ∀ e ∈ es', e.data.length < 2 ^ 32)
    (h : es.flatMap eventBytes = es'.flatMap eventBytes) : es = es' := by
  induction es generalizing es' with
  | nil => exact (List.length_eq_zero_iff.1 hlength.symm).symm
  | cons e es ih =>
    cases es' with
    | nil => cases hlength
    | cons e' es' =>
      obtain ⟨he, hes⟩ := List.forall_mem_cons.1 hes
      obtain ⟨he', hes'⟩ := List.forall_mem_cons.1 hes'
      obtain ⟨hhead, htail⟩ := eventBytes_append_inj he he' h
      rw [hhead, ih (Nat.succ.inj hlength) hes hes' htail]

/-- Settles O19: status, reason and value have a fixed length, the payload has its length before it
(`lengthFramed_append_inj`), and the events have their number before them and are read back one by one
(`eq_of_flatMap_eventBytes_eq`). -/
theorem responseBytesInjective : Obligations.ResponseBytesInjective := by
  intro r r' hbounds h
  obtain ⟨⟨hp, hn, hes⟩, hbounds⟩ := List.forall_mem_cons.1 hbounds
  obtain ⟨hp', hn', hes'⟩ := List.forall_mem_singleton.1 hbounds
  simp only [responseBytes, List.cons_append, List.nil_append, List.append_assoc,
    List.cons.injEq] at h
  obtain ⟨hstatus, hreason, hrest⟩ := h
  obtain ⟨hvalue, hrest⟩ := toBe_append_inj r.value.isLt r'.value.isLt hrest
  obtain ⟨hpayload, hrest⟩ := lengthFramed_append_inj hp hp' hrest
  obtain ⟨hcount, hrest⟩ := toBe_append_inj hn hn' hrest
  have hevents := eq_of_flatMap_eventBytes_eq hcount hes hes' hrest
  exact (Response.mk.injEq ..).mpr ⟨statusCode_injective (zeroExtend_byte_injective hstatus),
    reasonCode_injective hreason, BitVec.eq_of_toNat_eq hvalue, hpayload, hevents⟩

end Sys2Proof.Machine
end

section
/-! Reading rules for bytes, bits and numbers (00_scope.md R14, 20_memory.md R63): a bit field and a
big-endian number as sums, and what a written field or run leaves in every place. -/

namespace Sys2Proof.Machine

/-! ### bit fields -/

theorem bitValue_eq_toNat_bitAt (s : Bytes) (q : Nat) : bitValue s q = (bitAt s q).toNat := by
  rw [bitAt, ← BitVec.testBit_toNat, Nat.toNat_testBit, bitValue]

/-- Bit `k` of a field, counted from its least significant end. -/
theorem testBit_bitField (s : Bytes) (p w k : Nat) :
    (bitField s p w).testBit k = (decide (k < w) && bitAt s (p + w - 1 - k)) := by
  induction w generalizing k with
  | zero => simp [bitField]
  | succ w ih =>
    rw [bitField]
    cases k with
    | zero => cases h : bitAt s (p + w) <;> simp [h, Nat.testBit_zero]
    | succ k =>
      have hhalf : (2 * bitField s p w + (bitAt s (p + w)).toNat) / 2 = bitField s p w := by
        have := Bool.toNat_le (bitAt s (p + w))
        omega
      rw [Nat.testBit_succ, hhalf, ih]
      simp only [Nat.add_lt_add_iff_right]
      congr 2
      omega

/-- A field depends on its own bits alone. -/
theorem bitField_congr {s t : Bytes} {p w : Nat}
    (h : ∀ q, p ≤ q → q < p + w → bitAt t q = bitAt s q) : bitField t p w = bitField s p w := by
  refine Nat.eq_of_testBit_eq fun k => ?_
  rw [testBit_bitField, testBit_bitField]
  by_cases hk : k < w
  · rw [h _ (by omega) (by omega)]
  · simp [hk]

theorem bitField_setBitField_self {s : Bytes} {p w : Nat} (v : Nat)
    (hfits : (p + w - 1) / 8 < s.length) : bitField (setBitField s p w v) p w = v % 2 ^ w := by
  refine Nat.eq_of_testBit_eq fun k => ?_
  rw [testBit_bitField, Nat.testBit_mod_two_pow, bitAt_setBitField _ _ _ _ _ (.inr hfits)]
  by_cases hk : k < w
  · rw [if_pos (by omega)]
    congr 2
    omega
  · simp [hk]

theorem bitField_setBitField_disjoint {s : Bytes} {p w p' w' : Nat} (v : Nat)
    (hfits : (p + w - 1) / 8 < s.length) (hdisjoint : p' + w' ≤ p ∨ p + w ≤ p') :
    bitField (setBitField s p w v) p' w' = bitField s p' w' := by
  refine bitField_congr fun q hlow hhigh => ?_
  rw [bitAt_setBitField _ _ _ _ _ (.inr hfits), if_neg (by omega)]

/-- A byte that holds no bit of a field is kept when the field is set (40_binaryunit.md R137). -/
theorem setBitField_getElem?_of_ne {s : Bytes} {p w k : Nat} (v : Nat)
    (h : ∀ j < w, (p + j) / 8 ≠ k) : (setBitField s p w v)[k]? = s[k]? := by
  induction w generalizing v with
  | zero => rfl
  | succ w ih =>
    rw [setBitField, setBitAt, List.getElem?_set_ne (h w (Nat.lt_succ_self w))]
    exact ih _ fun j hj => h j (Nat.lt_succ_of_lt hj)

/-! ### numbers as sums -/

/-- One more digit after a number in base `B`, most significant digit first. -/
theorem sum_digits_succ (f : Nat → Nat) (B n : Nat) :
    ∑ j ∈ Finset.range (n + 1), f j * B ^ (n + 1 - 1 - j) =
      (∑ j ∈ Finset.range n, f j * B ^ (n - 1 - j)) * B + f n := by
  rw [Finset.sum_range_succ, Finset.sum_mul]
  congr 1
  · refine Finset.sum_congr rfl fun j hj => ?_
    have hj := Finset.mem_range.1 hj
    rw [mul_assoc, ← pow_succ]
    congr 2
    omega
  · simp

theorem bitField_eq_sum (s : Bytes) (p w : Nat) :
    bitField s p w = ∑ j ∈ Finset.range w, bitValue s (p + j) * 2 ^ (w - 1 - j) := by
  induction w with
  | zero => rfl
  | succ w ih =>
    rw [sum_digits_succ (fun j => bitValue s (p + j)), ← ih, bitField, bitValue_eq_toNat_bitAt,
      Nat.mul_comm]

theorem be_slice_succ {s : Bytes} {off n : Nat} (h : off + n < s.length) :
    be (slice s off (n + 1)) = be (slice s off n) * 256 + (s.getD (off + n) 0).toNat := by
  have hslice : slice s off (n + 1) = slice s off n ++ [s.getD (off + n) 0] := by
    simp [slice, List.take_add_one, List.getD_eq_getElem?_getD, h]
  rw [hslice, be_append, be_singleton, List.length_singleton, pow_one]

theorem be_slice_eq_sum {s : Bytes} {off n : Nat} (h : off + n ≤ s.length) :
    be (slice s off n) =
      ∑ j ∈ Finset.range n, (s.getD (off + j) 0).toNat * 256 ^ (n - 1 - j) := by
  induction n with
  | zero => simp [slice]
  | succ n ih =>
    rw [sum_digits_succ (fun j => (s.getD (off + j) 0).toNat), ← ih (by omega),
      be_slice_succ (by omega)]

theorem be_slice_lt (s : Bytes) (off n : Nat) : be (slice s off n) < 2 ^ (8 * n) := by
  calc be (slice s off n) < 256 ^ (slice s off n).length := be_lt _
    _ ≤ 256 ^ n := Nat.pow_le_pow_right (by norm_num) (by simp)
    _ = 2 ^ (8 * n) := (pow_mul 2 8 n).symm

/-! ### bit fields that are bytes -/

theorem bitField_add (s : Bytes) (p m n : Nat) :
    bitField s p (m + n) = bitField s p m * 2 ^ n + bitField s (p + m) n := by
  induction n with
  | zero => simp [bitField]
  | succ n ih =>
    rw [← Nat.add_assoc, bitField, ih, bitField, pow_succ, Nat.add_assoc p m n]
    ring

theorem bitField_byte (s : Bytes) (k : Nat) : bitField s (8 * k) 8 = (s.getD k 0).toNat := by
  refine Nat.eq_of_testBit_eq fun j => ?_
  rw [testBit_bitField, BitVec.testBit_toNat]
  by_cases hj : j < 8
  · have hbyte : (8 * k + 8 - 1 - j) / 8 = k := by omega
    have hbit : 7 - (8 * k + 8 - 1 - j) % 8 = j := by omega
    simp only [hj, decide_true, Bool.true_and, bitAt, hbyte, hbit]
  · simp [hj, BitVec.getLsbD_of_ge _ _ (Nat.le_of_not_lt hj)]

/-- A byte-aligned field of whole bytes is the big-endian number of those bytes (40_binaryunit.md
R138). -/
theorem bitField_bytes {s : Bytes} {k n : Nat} (h : k + n ≤ s.length) :
    bitField s (8 * k) (8 * n) = be (slice s k n) := by
  induction n with
  | zero => simp [bitField, slice]
  | succ n ih =>
    rw [be_slice_succ (by omega), ← ih (by omega), Nat.mul_succ, bitField_add, ← Nat.mul_add,
      bitField_byte]
    rfl

/-! ### runs of bytes -/

theorem slice_getElem? (s : Bytes) {off n k : Nat} (hk : k < n) :
    (slice s off n)[k]? = s[off + k]? := by
  rw [slice, List.getElem?_take, if_pos hk, List.getElem?_drop]

theorem overwrite_getElem?_inside {s d : Bytes} {off k : Nat} (hfits : off + d.length ≤ s.length)
    (hk : k < d.length) : (overwrite s off d)[off + k]? = d[k]? := by
  rw [overwrite_getElem? _ _ _ _ hfits, if_pos (by omega), Nat.add_sub_cancel_left]

theorem overwrite_getElem?_outside {s d : Bytes} {off k : Nat} (hfits : off + d.length ≤ s.length)
    (hk : k < off ∨ off + d.length ≤ k) : (overwrite s off d)[k]? = s[k]? := by
  rw [overwrite_getElem? _ _ _ _ hfits, if_neg (by omega)]

/-- One byte of a number written big-endian (40_binaryunit.md R143). -/
theorem overwrite_toBe_getD {s : Bytes} {off n j : Nat} (v : Nat) (hfits : off + n ≤ s.length)
    (hj : j < n) :
    ((overwrite s off (toBe v n)).getD (off + j) 0).toNat = v / 256 ^ (n - 1 - j) % 256 := by
  rw [List.getD_eq_getElem?_getD,
    overwrite_getElem?_inside (by simpa using hfits) (by simpa using hj),
    ← List.getD_eq_getElem?_getD, toBe_getD _ _ _ hj, BitVec.toNat_ofNat]

/-- A buffer made shorter or longer keeps its bytes, 0 where there were none (40_binaryunit.md R134). -/
theorem withLength_getD (d : Bytes) {n k : Nat} (hk : k < n) :
    (withLength d n).getD k 0 = d.getD k 0 := by
  simp only [withLength, List.getD_eq_getElem?_getD]
  split_ifs with hlength
  · by_cases hold : k < d.length
    · rw [List.getElem?_append_left hold]
    · rw [List.getElem?_append_right (by omega), List.getElem?_replicate, if_pos (by omega),
        List.getElem?_eq_none (by omega)]
      rfl
  · rw [List.getElem?_take, if_pos hk]

end Sys2Proof.Machine
end

section
/-! How a command of the BU family completes: the check of its buffer, the checks of its other operands
and of its range, and the ways to end with `OK`, each with all it leaves alone. -/

namespace Sys2Proof.Machine

variable {i : Instr} {s t : State} {b : BufIx} {v : Value}

/-! ### the checks -/

theorem errMask_of_fault {st : Status} (hst : st ≠ .ok) :
    errMask st = (1 : BitVec 6) <<< ((statusCode st).toNat - 1) := by
  cases st with
  | ok => exact absurd rfl hst
  | _ => rfl

theorem faults_of_raised {st : Status} {r : Reason} {aux : Nat} (hstatus : statusOf r = st)
    (hfault : st ≠ .ok) (hexec : exec i s = complete s (.raised r (val aux))) :
    Faults i s st r aux := by
  subst hstatus
  rw [Faults, hexec, ← errMask_of_fault hfault]
  rfl

theorem faults_of_raised_outOfRange (hexec : exec i s = complete s (.raised .fieldOutOfRange 0)) :
    Faults i s .outOfRange .fieldOutOfRange 0 := faults_of_raised rfl (by decide) hexec

theorem needsBuf_of_operand (hops : bufOperands i = [b]) : NeedsBuf i s b := fun hb =>
  exec_of_missing_buffer (by rw [hops, List.find?_cons_of_pos (by simpa using hb)])

/-- A command whose buffer exists goes on past the index check. -/
theorem exec_past_usesBuf {k : Completion} (hexec : exec i s = complete s (usesBuf s b k))
    (hb : b.toNat < s.cfg.nbuf) : exec i s = complete s k := by
  rw [hexec, usesBuf_of_lt hb]

theorem byteWidth_of_valid {y : Scalar} (hone : 1 ≤ y.toNat) (height : y.toNat ≤ 8)
    (k : Nat → Completion) : byteWidth y k = k y.toNat := by
  rw [byteWidth_eq, if_pos ⟨hone, height⟩]

theorem byteWidth_of_invalid {y : Scalar} (hy : y.toNat = 0 ∨ 8 < y.toNat) (k : Nat → Completion) :
    byteWidth y k = .raised .badOperand (val y.toNat) := by
  rw [byteWidth_eq, if_neg (by omega)]

theorem bitSpan_of_supported {x y : Scalar} (hone : 1 ≤ y.toNat) (hmax : y.toNat ≤ 64)
    (hsupported : bitsSupported s.cfg (x.toNat % 8) y.toNat = true) (k : Nat → Nat → Completion) :
    bitSpan s x y k = k x.toNat y.toNat := by
  rw [bitSpan_eq, if_pos ⟨⟨hone, hmax⟩, by simpa [bitsSupported] using hsupported⟩]

theorem bitSpan_of_unsupported {x y : Scalar}
    (hy : y.toNat = 0 ∨ 64 < y.toNat ∨ bitsSupported s.cfg (x.toNat % 8) y.toNat = false)
    (k : Nat → Nat → Completion) : bitSpan s x y k = .raised .badBitWidth (val y.toNat) := by
  rw [bitSpan_eq, if_neg]
  rintro ⟨⟨hone, hmax⟩, hsupported⟩
  obtain hzero | hover | hunsupported := hy
  · omega
  · omega
  · simp [bitsSupported, hsupported] at hunsupported

theorem memRead_of_le {off n : Nat} (hfits : off + n ≤ (s.buf b).length) (k : Bytes → Completion) :
    memRead s b off n k = k (slice (s.buf b) off n) := by
  rw [memRead_eq, if_pos hfits]

theorem memRead_of_lt {off n : Nat} (hover : (s.buf b).length < off + n) (k : Bytes → Completion) :
    memRead s b off n k = .raised .fieldOutOfRange 0 := by
  rw [memRead_eq, if_neg (Nat.not_le.2 hover)]

theorem memWrite_of_le {off : Nat} {d : Bytes} (hfits : off + d.length ≤ (s.buf b).length)
    (k : State → Completion) :
    memWrite s b off d k = k (s.setBuf b (overwrite (s.buf b) off d)) := by
  rw [memWrite_eq, if_pos hfits]

theorem memWrite_of_lt {off : Nat} {d : Bytes} (hover : (s.buf b).length < off + d.length)
    (k : State → Completion) : memWrite s b off d k = .raised .fieldOutOfRange 0 := by
  rw [memWrite_eq, if_neg (Nat.not_le.2 hover)]

theorem bitRead_of_lt {p w : Nat} (hfits : (p + w - 1) / 8 < (s.buf b).length)
    (k : Nat → Completion) : bitRead s b p w k = k (bitField (s.buf b) p w) := by
  rw [bitRead_eq, if_pos hfits]

theorem bitRead_of_le {p w : Nat} (hover : (s.buf b).length ≤ (p + w - 1) / 8)
    (k : Nat → Completion) : bitRead s b p w k = .raised .fieldOutOfRange 0 := by
  rw [bitRead_eq, if_neg (Nat.not_lt.2 hover)]

theorem bitWrite_of_lt {p w n : Nat} (hfits : (p + w - 1) / 8 < (s.buf b).length)
    (k : State → Completion) :
    bitWrite s b p w n k = k (s.setBuf b (setBitField (s.buf b) p w n)) := by
  rw [bitWrite_eq, if_pos hfits]

theorem bitWrite_of_le {p w n : Nat} (hover : (s.buf b).length ≤ (p + w - 1) / 8)
    (k : State → Completion) : bitWrite s b p w n k = .raised .fieldOutOfRange 0 := by
  rw [bitWrite_eq, if_neg (Nat.not_lt.2 hover)]

theorem replaceBuf_of_le {n : Nat} {d : Bytes} (hcap : n ≤ s.cfg.bufCap) (k : State → Completion) :
    replaceBuf s b n d k = k (s.setBuf b d) := by
  rw [replaceBuf_eq, if_pos hcap]

theorem replaceBuf_of_lt {n : Nat} {d : Bytes} (hover : s.cfg.bufCap < n) (k : State → Completion) :
    replaceBuf s b n d k = .raised .bufferCapacity (val n) := by
  rw [replaceBuf_eq, if_neg (Nat.not_le.2 hover)]

/-! ### the ways to end with `OK` -/

theorem sameUnits_refl (s : State) : SameUnits s s :=
  ⟨rfl, sameAsm_refl s, samePkt_refl s, rfl, rfl, rfl⟩

theorem SameUnits.cfg_eq (h : SameUnits s t) : t.cfg = s.cfg := by
  obtain ⟨-, -, -, -, hcfg, -⟩ := h
  exact hcfg

theorem sameResFrom_one_setRes (s : State) (v : Value) : SameResFrom 1 s (s.setRes 0 v) :=
  fun j hj => setResFrom_res_of_le s [v] j hj

theorem setRes_zero_res_zero (s : State) (v : Value) : (s.setRes 0 v).res[0] = v := by simp

/-- A command that reads: one result, and every buffer as before. -/
theorem completes_setRes (hexec : exec i s = complete s (finish (s.setRes 0 v))) :
    ∃ t, exec i s = .next t ∧ t.res[0] = v ∧
      SameMem s t ∧ SameResFrom 1 s t ∧ SameUnits s t ∧ Answers t [] [] :=
  ⟨_, hexec, setRes_zero_res_zero s v, fun _ _ => rfl, sameResFrom_one_setRes s v,
    sameUnits_refl s, rfl⟩

/-- A command that replaces its buffer, with one result. -/
theorem completes_setBuf_setRes {d : Bytes}
    (hexec : exec i s = complete s (finish ((s.setBuf b d).setRes 0 v))) :
    ∃ t, exec i s = .next t ∧ t.buf b = d ∧ t.res[0] = v ∧
      SameMemBut b s t ∧ SameResFrom 1 s t ∧ SameUnits s t ∧ Answers t [] [] :=
  ⟨_, hexec, buf_setBuf_self s b d, setRes_zero_res_zero _ v,
    fun j k hj => byteAt_setBuf_ne s b j d k hj, sameResFrom_one_setRes (s.setBuf b d) v,
    sameUnits_refl s, rfl⟩

/-- A command that writes into its buffer, with no result. -/
theorem completes_setBuf {d : Bytes} (hexec : exec i s = complete s (finish (s.setBuf b d))) :
    ∃ t, exec i s = .next t ∧ t.buf b = d ∧
      SameMemBut b s t ∧ SameResFrom 0 s t ∧ SameUnits s t ∧ Answers t [] [] :=
  ⟨_, hexec, buf_setBuf_self s b d, fun j k hj => byteAt_setBuf_ne s b j d k hj,
    fun _ _ => rfl, sameUnits_refl s, rfl⟩

/-! ### values and bytes -/

theorem val_toNat {n : Nat} (h : n < 2 ^ 64) : (val n).toNat = n := by
  rw [val, BitVec.toNat_ofNat, Nat.mod_eq_of_lt h]

theorem val_scalar_toNat (x : Scalar) : (val x.toNat).toNat = x.toNat :=
  val_toNat (x.isLt.trans (by norm_num))

theorem byteAt_of_lt (hb : b.toNat < s.cfg.nbuf) (k : Nat) : s.byteAt b k = (s.buf b)[k]? :=
  if_pos hb

theorem byteAt_eq_of_getElem?_eq {k : Nat} (hcfg : t.cfg = s.cfg)
    (h : (t.buf b)[k]? = (s.buf b)[k]?) : t.byteAt b k = s.byteAt b k := by
  rw [State.byteAt, State.byteAt, hcfg, h]

end Sys2Proof.Machine
end

section
/-! Buffers as a whole: `BU.NEW`, `BU.LOAD`, `BU.LEN`, `BU.SETLEN`, `BU.APPEND` (40_binaryunit.md R131 to
R135). -/

namespace Sys2Proof.Machine

variable {i : Instr} {s : State} {b : BufIx} {n : Nat} {d : Bytes}

/-- `i` replaces `B[b]` by `d`, asking for `n` bytes, and gives the length as its result. -/
def ReplacesBuf (i : Instr) (s : State) (b : BufIx) (n : Nat) (d : Bytes) : Prop :=
  exec i s = complete s (usesBuf s b (replaceBuf s b n d fun t => finish (t.setRes 0 (val n))))

theorem ReplacesBuf.capacity (h : ReplacesBuf i s b n d) (hb : b.toNat < s.cfg.nbuf)
    (hover : s.cfg.bufCap < n) : Faults i s .capacity .bufferCapacity n :=
  faults_of_raised rfl (by decide) <| by rw [exec_past_usesBuf h hb, replaceBuf_of_lt hover]

theorem ReplacesBuf.completes (h : ReplacesBuf i s b n d) (hb : b.toNat < s.cfg.nbuf)
    (hcap : n ≤ s.cfg.bufCap) :
    ∃ t, exec i s = .next t ∧ t.buf b = d ∧ t.res[0] = val n ∧
      SameMemBut b s t ∧ SameResFrom 1 s t ∧ SameUnits s t ∧ Answers t [] [] :=
  completes_setBuf_setRes <| by rw [exec_past_usesBuf h hb, replaceBuf_of_le hcap]

theorem replacesBuf_buNew (s : State) (b : BufIx) (x : Scalar) :
    ReplacesBuf (.buNew b x) s b x.toNat (List.replicate x.toNat 0x00) := rfl

theorem replacesBuf_buLoad (s : State) (b : BufIx) (p : Bytes) :
    ReplacesBuf (.buLoad b p) s b p.length p := rfl

theorem replacesBuf_buSetlen (s : State) (b : BufIx) (x : Scalar) :
    ReplacesBuf (.buSetlen b x) s b x.toNat (withLength (s.buf b) x.toNat) := rfl

theorem replacesBuf_buAppend (s : State) (b : BufIx) (p : Bytes) :
    ReplacesBuf (.buAppend b p) s b ((s.buf b).length + p.length) (s.buf b ++ p) := rfl

/-- Settles O25: both commands replace the buffer (`ReplacesBuf`), by zero bytes and by the payload. -/
theorem newAndLoadReplace : Obligations.NewAndLoadReplace := by
  intro s b
  refine ⟨fun _ => needsBuf_of_operand rfl, fun _ => needsBuf_of_operand rfl, fun hb =>
    ⟨fun x hcap => ?_, fun x => (replacesBuf_buNew s b x).capacity hb,
      fun p => (replacesBuf_buLoad s b p).completes hb,
      fun p => (replacesBuf_buLoad s b p).capacity hb⟩⟩
  obtain ⟨t, hexec, hbuf, hres, hframe⟩ := (replacesBuf_buNew s b x).completes hb hcap
  refine ⟨t, hexec, ?_, ?_, ?_, hframe⟩
  · rw [hbuf, List.length_replicate]
  · rw [hbuf]
    exact fun _ => List.eq_of_mem_replicate
  · rw [hres, val_scalar_toNat]

/-- Settles O26: `BU.LEN` only reads; the other two replace the buffer (`ReplacesBuf`), `BU.SETLEN` by its
own bytes made longer or shorter (`withLength_getD`). -/
theorem lengthCommands : Obligations.LengthCommands := by
  intro s b
  refine ⟨needsBuf_of_operand rfl, fun _ => needsBuf_of_operand rfl,
    fun _ => needsBuf_of_operand rfl, fun hb =>
    ⟨completes_setRes (exec_past_usesBuf rfl hb), fun x hcap => ?_,
      fun x => (replacesBuf_buSetlen s b x).capacity hb,
      fun p => (replacesBuf_buAppend s b p).completes hb,
      fun p => (replacesBuf_buAppend s b p).capacity hb⟩⟩
  obtain ⟨t, hexec, hbuf, hres, hframe⟩ := (replacesBuf_buSetlen s b x).completes hb hcap
  refine ⟨t, hexec, ?_, fun k hk => ?_, ?_, hframe⟩
  · rw [hbuf, withLength_length]
  · rw [hbuf]
    exact withLength_getD _ hk
  · rw [hres, val_scalar_toNat]

end Sys2Proof.Machine
end

section
/-! Bit fields: `BU.GETBITS` and `BU.SETBITS` (40_binaryunit.md R136 to R138). -/

namespace Sys2Proof.Machine

variable {i : Instr} {s t u : State} {b : BufIx} {x y : Scalar} {k : Nat → Nat → Completion}

/-! ### what the two commands do -/

/-- `i` checks the index `b` and the field `x`, `y` and goes on with `k`. -/
def AccessesBits (i : Instr) (s : State) (b : BufIx) (x y : Scalar) (k : Nat → Nat → Completion) :
    Prop := exec i s = complete s (usesBuf s b (bitSpan s x y k))

theorem accessesBits_buGetbits (s : State) (b : BufIx) (x y : Scalar) :
    AccessesBits (.buGetbits b x y) s b x y
      fun p w => bitRead s b p w fun n => finish (s.setRes 0 (val n)) := rfl

theorem accessesBits_buSetbits (s : State) (b : BufIx) (x y : Scalar) (v : Value) :
    AccessesBits (.buSetbits b x y v) s b x y fun p w => bitWrite s b p w v.toNat finish := rfl

theorem AccessesBits.invalidWidth (h : AccessesBits i s b x y k) (hb : b.toNat < s.cfg.nbuf)
    (hy : y.toNat = 0 ∨ 64 < y.toNat ∨ bitsSupported s.cfg (x.toNat % 8) y.toNat = false) :
    Faults i s .invalidWidth .badBitWidth y.toNat :=
  faults_of_raised rfl (by decide) <| by rw [exec_past_usesBuf h hb, bitSpan_of_unsupported hy]

theorem AccessesBits.exec_eq (h : AccessesBits i s b x y k) (hb : b.toNat < s.cfg.nbuf)
    (hone : 1 ≤ y.toNat) (hmax : y.toNat ≤ 64)
    (hsupported : bitsSupported s.cfg (x.toNat % 8) y.toNat = true) :
    exec i s = complete s (k x.toNat y.toNat) := by
  rw [exec_past_usesBuf h hb, bitSpan_of_supported hone hmax hsupported]

theorem bitField_lt_word {d : Bytes} {p w : Nat} (hmax : w ≤ 64) : bitField d p w < 2 ^ 64 :=
  (bitField_lt d p w).trans_le (Nat.pow_le_pow_right (by norm_num) hmax)

/-- Settles O27: the checks in order, and the field read is the sum of its bits (`bitField_eq_sum`). -/
theorem getbitsReads : Obligations.GetbitsReads := by
  intro s b x y p w
  have haccess := accessesBits_buGetbits s b x y
  refine ⟨needsBuf_of_operand rfl, fun hb => ⟨haccess.invalidWidth hb,
    fun hone hmax hsupported => ?_⟩⟩
  have hexec := haccess.exec_eq hb hone hmax hsupported
  refine ⟨fun hover => ?_, fun hfits => ?_⟩
  · exact faults_of_raised_outOfRange (by rw [hexec, bitRead_of_le hover])
  · rw [bitRead_of_lt hfits] at hexec
    obtain ⟨t, ht, hres, hframe⟩ := completes_setRes hexec
    refine ⟨t, ht, ?_, hframe⟩
    rw [hres, val_toNat (bitField_lt_word hmax), bitField_eq_sum]

theorem bitValue_setBitField_inside {d : Bytes} {p w j : Nat} (n : Nat)
    (hfits : (p + w - 1) / 8 < d.length) (hj : j < w) :
    bitValue (setBitField d p w n) (p + j) = n / 2 ^ (w - 1 - j) % 2 := by
  rw [bitValue_eq_toNat_bitAt, bitAt_setBitField _ _ _ _ _ (.inr hfits), if_pos (by omega),
    Nat.toNat_testBit, show p + w - 1 - (p + j) = w - 1 - j by omega]

theorem bitValue_setBitField_outside {d : Bytes} {p w q : Nat} (n : Nat)
    (hfits : (p + w - 1) / 8 < d.length) (hq : q < p ∨ p + w ≤ q) :
    bitValue (setBitField d p w n) q = bitValue d q := by
  rw [bitValue_eq_toNat_bitAt, bitAt_setBitField _ _ _ _ _ (.inr hfits), if_neg (by omega),
    bitValue_eq_toNat_bitAt]

/-- Settles O28: the checks in order, and each bit and byte after the field is set
(`bitValue_setBitField_inside`, `bitValue_setBitField_outside`, `setBitField_getElem?_of_ne`). -/
theorem setbitsWrites : Obligations.SetbitsWrites := by
  intro s b x y v p w
  have haccess := accessesBits_buSetbits s b x y v
  refine ⟨needsBuf_of_operand rfl, fun hb => ⟨haccess.invalidWidth hb,
    fun hone hmax hsupported => ?_⟩⟩
  have hexec := haccess.exec_eq hb hone hmax hsupported
  refine ⟨fun hover => ?_, fun hfits => ?_⟩
  · exact faults_of_raised_outOfRange (by rw [hexec, bitWrite_of_le hover])
  · rw [bitWrite_of_lt hfits] at hexec
    obtain ⟨t, ht, hbuf, hmem, hres, hunits, hanswers⟩ := completes_setBuf hexec
    refine ⟨t, ht, ?_, fun j hj => ?_, fun q hq => ?_, fun k hk => ?_, hmem, hres, hunits, hanswers⟩
    · rw [hbuf, setBitField_length]
    · rw [hbuf]
      exact bitValue_setBitField_inside _ hfits hj
    · rw [hbuf]
      exact bitValue_setBitField_outside _ hfits hq
    · refine byteAt_eq_of_getElem?_eq hunits.cfg_eq ?_
      rw [hbuf]
      exact setBitField_getElem?_of_ne _ fun j hj => by omega

/-! ### one command after another -/

theorem okNext_complete_finish (s t : State) :
    okNext (complete s (finish t)) = some (answerOk t t.res[0] [] []) := rfl

/-- A command gets past a check with `OK` just when the check holds. -/
theorem okNext_complete_require {ok : Bool} {r : Reason} {a : Value} {c : Completion}
    (hr : statusOf r ≠ .ok) :
    okNext (complete s (require ok r a c)) = some u ↔
      ok = true ∧ okNext (complete s c) = some u := by
  cases ok with
  | true => simp
  | false => simp [okNext, hr]

/-- The buffer exists, the field is supported, and all of it is in the buffer. -/
structure BitsFit (s : State) (b : BufIx) (x y : Scalar) : Prop where
  index : b.toNat < s.cfg.nbuf
  width : 1 ≤ y.toNat ∧ y.toNat ≤ maxBits
  supported : bitsSupported s.cfg (x.toNat % 8) y.toNat = true
  range : (x.toNat + y.toNat - 1) / 8 < (s.buf b).length

/-- What fits depends on the parameters and on the length of the buffer alone. -/
theorem BitsFit.congr (h : BitsFit s b x y) (hcfg : t.cfg = s.cfg)
    (hlength : (t.buf b).length = (s.buf b).length) : BitsFit t b x y :=
  ⟨hcfg ▸ h.index, h.width, hcfg ▸ h.supported, hlength ▸ h.range⟩

theorem okNext_buGetbits :
    okNext (exec (.buGetbits b x y) s) = some u ↔ BitsFit s b x y ∧
      answerOk (s.setRes 0 (val (bitField (s.buf b) x.toNat y.toNat)))
        (s.setRes 0 (val (bitField (s.buf b) x.toNat y.toNat))).res[0] [] [] = u := by
  rw [accessesBits_buGetbits s b x y, usesBuf, okNext_complete_require (by decide), bitSpan,
    okNext_complete_require (by decide), bitRead, okNext_complete_require (by decide),
    okNext_complete_finish, Option.some_inj, Bool.and_eq_true_iff, decide_eq_true_iff,
    decide_eq_true_iff, decide_eq_true_iff]
  exact ⟨fun ⟨hindex, ⟨hwidth, hsupported⟩, hrange, hu⟩ => ⟨⟨hindex, hwidth, hsupported, hrange⟩, hu⟩,
    fun ⟨h, hu⟩ => ⟨h.index, ⟨h.width, h.supported⟩, h.range, hu⟩⟩

theorem okNext_buSetbits {v : Value} (h : okNext (exec (.buSetbits b x y v) s) = some t) :
    BitsFit s b x y ∧ t.cfg = s.cfg ∧
      t.buf b = setBitField (s.buf b) x.toNat y.toNat v.toNat := by
  rw [accessesBits_buSetbits s b x y, usesBuf, okNext_complete_require (by decide), bitSpan,
    okNext_complete_require (by decide), bitWrite, okNext_complete_require (by decide),
    okNext_complete_finish, Option.some_inj, Bool.and_eq_true_iff, decide_eq_true_iff,
    decide_eq_true_iff, decide_eq_true_iff] at h
  obtain ⟨hindex, ⟨hwidth, hsupported⟩, hrange, rfl⟩ := h
  exact ⟨⟨hindex, hwidth, hsupported, hrange⟩, rfl, buf_setBuf_self s b _⟩

theorem okNext_buGetu {n : Scalar} (h : okNext (exec (.buGetu b x n) s) = some u) :
    x.toNat + n.toNat ≤ (s.buf b).length ∧
      u.res[0] = val (be (slice (s.buf b) x.toNat n.toNat)) := by
  change okNext (complete s (usesBuf s b (byteWidth n _))) = some u at h
  rw [usesBuf, okNext_complete_require (by decide), byteWidth, okNext_complete_require (by decide),
    memRead, okNext_complete_require (by decide), okNext_complete_finish, Option.some_inj,
    decide_eq_true_iff, decide_eq_true_iff, decide_eq_true_iff] at h
  obtain ⟨-, -, hfits, rfl⟩ := h
  exact ⟨hfits, setRes_zero_res_zero _ _⟩

/-- Settles O29: the checks of `BU.GETBITS` are those the write passed (`BitsFit.congr`), the field reads
as `bitField_setBitField_self` and `bitField_setBitField_disjoint` say, and an aligned field is the
number of its bytes (`bitField_bytes`). -/
theorem bitAccessorLaw : Obligations.BitAccessorLaw := by
  refine ⟨fun s t b x y v hset => ?_, fun s u u' b p w x n hp hw hbits hbytes => ?_⟩
  · obtain ⟨hfits, hcfg, hbuf⟩ := okNext_buSetbits hset
    have hlength : (t.buf b).length = (s.buf b).length := by rw [hbuf, setBitField_length]
    refine ⟨⟨_, okNext_buGetbits.2 ⟨hfits.congr hcfg hlength, rfl⟩, ?_⟩,
      fun x' y' u hdisjoint hget => ?_⟩
    · rw [answerOk_res, setRes_zero_res_zero, val_toNat (bitField_lt_word hfits.width.2), hbuf,
        bitField_setBitField_self _ hfits.range]
    · obtain ⟨hfits', rfl⟩ := okNext_buGetbits.1 hget
      refine ⟨_, okNext_buGetbits.2 ⟨hfits'.congr hcfg hlength, rfl⟩, ?_⟩
      rw [answerOk_res, answerOk_res, setRes_zero_res_zero, setRes_zero_res_zero, hbuf,
        bitField_setBitField_disjoint _ hfits.range hdisjoint]
  · obtain ⟨-, rfl⟩ := okNext_buGetbits.1 hbits
    obtain ⟨hfits, hres⟩ := okNext_buGetu hbytes
    rw [hres, answerOk_res, setRes_zero_res_zero, hp, hw, bitField_bytes hfits]

end Sys2Proof.Machine
end

section
/-! Integers and byte runs: `BU.GETU`, `BU.GETS`, `BU.SETU`, `BU.SETS`, `BU.GETBYTES`, `BU.SETBYTES`
(40_binaryunit.md R139 to R146). -/

namespace Sys2Proof.Machine

variable {i : Instr} {s : State} {b : BufIx} {x y : Scalar}

/-! ### integers -/

/-- `i` checks the index `b` and the width `y` in bytes and goes on with `k`. -/
def AccessesInteger (i : Instr) (s : State) (b : BufIx) (y : Scalar) (k : Nat → Completion) : Prop :=
  exec i s = complete s (usesBuf s b (byteWidth y k))

theorem AccessesInteger.badOperand {k : Nat → Completion} (h : AccessesInteger i s b y k)
    (hb : b.toNat < s.cfg.nbuf) (hy : y.toNat = 0 ∨ 8 < y.toNat) :
    Faults i s .illegalCommand .badOperand y.toNat :=
  faults_of_raised rfl (by decide) <| by rw [exec_past_usesBuf h hb, byteWidth_of_invalid hy]

theorem AccessesInteger.exec_eq {k : Nat → Completion} (h : AccessesInteger i s b y k)
    (hb : b.toNat < s.cfg.nbuf) (hone : 1 ≤ y.toNat) (height : y.toNat ≤ 8) :
    exec i s = complete s (k y.toNat) := by
  rw [exec_past_usesBuf h hb, byteWidth_of_valid hone height]

/-- What follows the checks of an integer read whose value `f` makes from the bytes and the width. -/
def readInteger (s : State) (b : BufIx) (x : Scalar) (f : Nat → Nat → Value) (n : Nat) : Completion :=
  memRead s b x.toNat n fun d => finish (s.setRes 0 (f (be d) n))

theorem accessesInteger_buGetu (s : State) (b : BufIx) (x y : Scalar) :
    AccessesInteger (.buGetu b x y) s b y (readInteger s b x fun u _ => val u) := rfl

theorem accessesInteger_buGets (s : State) (b : BufIx) (x y : Scalar) :
    AccessesInteger (.buGets b x y) s b y (readInteger s b x signed64) := rfl

theorem AccessesInteger.read_outOfRange {f : Nat → Nat → Value}
    (h : AccessesInteger i s b y (readInteger s b x f)) (hb : b.toNat < s.cfg.nbuf)
    (hone : 1 ≤ y.toNat) (height : y.toNat ≤ 8) (hover : (s.buf b).length < x.toNat + y.toNat) :
    Faults i s .outOfRange .fieldOutOfRange 0 :=
  faults_of_raised_outOfRange <| by
    rw [h.exec_eq hb hone height, readInteger, memRead_of_lt hover]

theorem AccessesInteger.read_completes {f : Nat → Nat → Value}
    (h : AccessesInteger i s b y (readInteger s b x f)) (hb : b.toNat < s.cfg.nbuf)
    (hone : 1 ≤ y.toNat) (height : y.toNat ≤ 8) (hfits : x.toNat + y.toNat ≤ (s.buf b).length) :
    ∃ t, exec i s = .next t ∧ t.res[0] = f (be (slice (s.buf b) x.toNat y.toNat)) y.toNat ∧
      SameMem s t ∧ SameResFrom 1 s t ∧ SameUnits s t ∧ Answers t [] [] :=
  completes_setRes <| by rw [h.exec_eq hb hone height, readInteger, memRead_of_le hfits]

/-- A number of `n` bytes read as two's complement (40_binaryunit.md R142). -/
theorem signed64_toInt {u n : Nat} (hone : 1 ≤ n) (height : n ≤ 8) (hu : u < 2 ^ (8 * n)) :
    (signed64 u n).toInt = if u < 2 ^ (8 * n - 1) then (u : Int) else (u : Int) - 2 ^ (8 * n) := by
  have hpow : 2 ^ (8 * n) = 2 * 2 ^ (8 * n - 1) := by
    rw [← pow_succ', Nat.sub_add_cancel (by omega)]
  have hsign : 2 * u < 2 ^ (8 * n) ↔ u < 2 ^ (8 * n - 1) := by omega
  rw [signed64, BitVec.toInt_signExtend_of_le (by omega), BitVec.toInt_eq_toNat_cond,
    BitVec.toNat_ofNat, Nat.mod_eq_of_lt hu]
  simp only [hsign, Nat.cast_pow, Nat.cast_ofNat]

/-- Settles O30: the checks in order, and the bytes read are the big-endian sum (`be_slice_eq_sum`), which
`BU.GETS` takes as two's complement (`signed64_toInt`). -/
theorem integerReads : Obligations.IntegerReads := by
  intro s b x y n u
  have hgetu := accessesInteger_buGetu s b x y
  have hgets := accessesInteger_buGets s b x y
  refine ⟨needsBuf_of_operand rfl, needsBuf_of_operand rfl, fun hb =>
    ⟨fun hy => ⟨hgetu.badOperand hb hy, hgets.badOperand hb hy⟩,
      fun hone height hover => ⟨hgetu.read_outOfRange hb hone height hover,
        hgets.read_outOfRange hb hone height hover⟩,
      fun hone height hfits => ?_⟩⟩
  have hsum : be (slice (s.buf b) x.toNat n) = u := be_slice_eq_sum hfits
  have hu : u < 2 ^ (8 * n) := hsum ▸ be_slice_lt _ _ _
  constructor
  · obtain ⟨t, ht, hres, hframe⟩ := hgetu.read_completes hb hone height hfits
    have hword : u < 2 ^ 64 := hu.trans_le (Nat.pow_le_pow_right (by norm_num) (by omega))
    exact ⟨t, ht, by rw [hres, hsum, val_toNat hword], hframe⟩
  · obtain ⟨t, ht, hres, hframe⟩ := hgets.read_completes hb hone height hfits
    exact ⟨t, ht, by rw [hres, hsum, signed64_toInt hone height hu], hframe⟩

/-- `BU.SETU` and `BU.SETS` do the same (40_binaryunit.md R144). -/
theorem accessesInteger_of_write {v : Value}
    (hi : i ∈ [Instr.buSetu b x y v, Instr.buSets b x y v]) :
    bufOperands i = [b] ∧
      AccessesInteger i s b y fun n => memWrite s b x.toNat (toBe v.toNat n) finish := by
  obtain rfl | hi := List.mem_cons.1 hi
  · exact ⟨rfl, rfl⟩
  · obtain rfl := List.mem_singleton.1 hi
    exact ⟨rfl, rfl⟩

/-- What a write into a buffer leaves of its bytes (20_memory.md R67). -/
theorem byteAt_overwrite_outside {t : State} {off k : Nat} {d : Bytes} (hcfg : t.cfg = s.cfg)
    (hbuf : t.buf b = overwrite (s.buf b) off d) (hfits : off + d.length ≤ (s.buf b).length)
    (hk : k < off ∨ off + d.length ≤ k) : t.byteAt b k = s.byteAt b k := by
  refine byteAt_eq_of_getElem?_eq hcfg ?_
  rw [hbuf, overwrite_getElem?_outside hfits hk]

/-- Settles O31: both commands write the same bytes (`accessesInteger_of_write`), each of them a base-256
digit of the value (`overwrite_toBe_getD`). -/
theorem integerWrites : Obligations.IntegerWrites := by
  intro s b x y v n i hi
  obtain ⟨hops, haccess⟩ := accessesInteger_of_write (s := s) hi
  have hlength : (toBe v.toNat n).length = n := toBe_length _ _
  refine ⟨needsBuf_of_operand hops, fun hb => ⟨haccess.badOperand hb,
    fun hone height hover => ?_, fun hone height hfits => ?_⟩⟩
  · exact faults_of_raised_outOfRange <| by
      rw [haccess.exec_eq hb hone height, memWrite_of_lt (by rwa [hlength])]
  · have hexec := haccess.exec_eq hb hone height
    have hfits' : x.toNat + (toBe v.toNat n).length ≤ (s.buf b).length := by rwa [hlength]
    rw [memWrite_of_le hfits'] at hexec
    obtain ⟨t, ht, hbuf, hmem, hres, hunits, hanswers⟩ := completes_setBuf hexec
    refine ⟨t, ht, ?_, fun j hj => ?_, fun k hk => ?_, hmem, hres, hunits, hanswers⟩
    · rw [hbuf, overwrite_length _ _ _ hfits']
    · rw [hbuf]
      exact overwrite_toBe_getD _ hfits hj
    · exact byteAt_overwrite_outside hunits.cfg_eq hbuf hfits' (by rwa [hlength])

/-! ### byte runs -/

theorem exec_buGetbytes (hb : b.toNat < s.cfg.nbuf) : exec (.buGetbytes b x y) s =
    complete s (memRead s b x.toNat y.toNat fun d => .done s s.res[0] d []) :=
  exec_past_usesBuf rfl hb

theorem exec_buSetbytes (p : Bytes) (hb : b.toNat < s.cfg.nbuf) :
    exec (.buSetbytes b x p) s = complete s (memWrite s b x.toNat p finish) :=
  exec_past_usesBuf rfl hb

/-- Settles O32: the run read is a slice of the buffer (`slice_getElem?`), and the run written replaces its
own bytes alone (`overwrite_getElem?_inside`, `byteAt_overwrite_outside`). -/
theorem byteRuns : Obligations.ByteRuns := by
  intro s b x
  refine ⟨fun _ => needsBuf_of_operand rfl, fun _ => needsBuf_of_operand rfl, fun hb =>
    ⟨fun y hover => ?_, fun y hfits => ?_, fun p hover => ?_, fun p hfits => ?_⟩⟩
  · exact faults_of_raised_outOfRange (by rw [exec_buGetbytes hb, memRead_of_lt hover])
  · have hexec := exec_buGetbytes (x := x) (y := y) hb
    rw [memRead_of_le hfits] at hexec
    refine ⟨_, slice (s.buf b) x.toNat y.toNat, hexec, ?_, fun k hk => ?_, fun _ _ => rfl,
      fun _ _ => rfl, sameUnits_refl s, rfl⟩
    · rw [slice_length]
      omega
    · rw [slice_getElem? _ hk, byteAt_of_lt hb]
  · exact faults_of_raised_outOfRange (by rw [exec_buSetbytes p hb, memWrite_of_lt hover])
  · have hexec := exec_buSetbytes (x := x) p hb
    rw [memWrite_of_le hfits] at hexec
    obtain ⟨t, ht, hbuf, hmem, hres, hunits, hanswers⟩ := completes_setBuf hexec
    refine ⟨t, ht, ?_, fun k hk => ?_,
      fun k hk => byteAt_overwrite_outside hunits.cfg_eq hbuf hfits hk, hmem, hres, hunits, hanswers⟩
    · rw [hbuf, overwrite_length _ _ _ hfits]
    · have hindex : b.toNat < t.cfg.nbuf := hunits.cfg_eq ▸ hb
      rw [byteAt_of_lt hindex, hbuf, overwrite_getElem?_inside hfits hk]

end Sys2Proof.Machine
end

section
/-! The BCH register (41_bch.md R161 to R163): each clock is linear over GF(2) and invertible, so the same
holds of any number of clocks, and with them of the transition table. -/

namespace Sys2Proof.Machine

/-! ### one clock -/

/-- What the feedback bit adds to the shifted register: the mask of the taps {0, 2, 6}. -/
def feedbackMask (fb : Bool) : BitVec 7 := if fb then 0x45 else 0

theorem feedbackMask_xor : ∀ a b : Bool, feedbackMask (a ^^ b) = feedbackMask a ^^^ feedbackMask b := by
  decide

theorem bchClock_eq_shift_xor (s : BitVec 7) (b : Bool) :
    bchClock s b = s <<< 1 ^^^ feedbackMask (b ^^ s.getLsbD 6) := by
  unfold bchClock feedbackMask
  split
  · rfl
  · exact BitVec.xor_zero.symm

theorem bchClock_xor (s t : BitVec 7) (b c : Bool) :
    bchClock (s ^^^ t) (b ^^ c) = bchClock s b ^^^ bchClock t c := by
  simp only [bchClock_eq_shift_xor, BitVec.shiftLeft_xor_distrib, BitVec.getLsbD_xor, feedbackMask_xor]
  ac_rfl

theorem eq_zero_of_bchClock_eq_zero : ∀ s : BitVec 7, bchClock s false = 0 → s = 0 := by decide

theorem bchClock_injective (b : Bool) : Function.Injective fun s => bchClock s b := by
  intro s t (h : bchClock s b = bchClock t b)
  have hdiff : bchClock (s ^^^ t) false = 0 := by
    rw [← Bool.xor_self b, bchClock_xor, h, BitVec.xor_self]
    rfl
  exact BitVec.xor_eq_zero_iff.1 (eq_zero_of_bchClock_eq_zero _ hdiff)

theorem bchClock_bijective (b : Bool) : Function.Bijective fun s => bchClock s b :=
  Finite.injective_iff_bijective.1 (bchClock_injective b)

/-! ### any number of clocks -/

theorem foldl_bchClock_bijective (bits : List Bool) :
    Function.Bijective fun s => bits.foldl bchClock s := by
  induction bits with
  | nil => exact Function.bijective_id
  | cons b bits ih => exact ih.comp (bchClock_bijective b)

/-- The bits of two messages of one length added are the bits of the sum. -/
theorem foldl_bchClock_xor (js : List ℕ) (f g : ℕ → Bool) (s t : BitVec 7) :
    (js.map fun j => f j ^^ g j).foldl bchClock (s ^^^ t) =
      (js.map f).foldl bchClock s ^^^ (js.map g).foldl bchClock t := by
  induction js generalizing s t with
  | nil => rfl
  | cons j js ih => simp only [List.map_cons, List.foldl_cons, bchClock_xor, ih]

/-! ### the transition table -/

/-- The bits of a byte, the most significant one first (41_bch.md R162). -/
def msbFirst (b : Byte) : List Bool := (List.range 8).map fun j => b.getLsbD (7 - j)

theorem bchTable_eq_foldl (s : BitVec 7) (b : Byte) : bchTable s b = (msbFirst b).foldl bchClock s :=
  rfl

theorem bchTable_xor (s t : BitVec 7) (b c : Byte) :
    bchTable (s ^^^ t) (b ^^^ c) = bchTable s b ^^^ bchTable t c := by
  simp only [bchTable_eq_foldl, msbFirst, BitVec.getLsbD_xor, foldl_bchClock_xor]

theorem bchTable_xor_state (s t : BitVec 7) (b : Byte) :
    bchTable (s ^^^ t) b = bchTable s b ^^^ bchTable t 0 := by
  simpa using bchTable_xor s t b 0

theorem bchTable_xor_byte (s : BitVec 7) (b c : Byte) :
    bchTable s (b ^^^ c) = bchTable s b ^^^ bchTable 0 c := by
  simpa using bchTable_xor s 0 b c

/-- Settles O34: the printed entries are computed; the table is linear (`bchTable_xor`) and a byte is
eight invertible clocks (`foldl_bchClock_bijective`). -/
theorem bchTableLaws : Obligations.BchTableLaws := by
  refine ⟨by decide, by decide, fun s b => ?_, fun b => foldl_bchClock_bijective (msbFirst b)⟩
  simpa using bchTable_xor_byte s 0 b

end Sys2Proof.Machine
end

section
/-! The BCH register as a division circuit (41_bch.md R161): bit strings and register values as
polynomials over GF(2), and one clock as multiplication by `x` and reduction by the generator. -/

namespace Sys2Proof.Machine

open Polynomial

/-! ### one clock as numbers -/

theorem feedbackMask_toNat (fb : Bool) : (feedbackMask fb).toNat = if fb = true then 0x45 else 0 := by
  cases fb <;> rfl

theorem getLsbD_six_eq_decide (s : BitVec 7) : s.getLsbD 6 = decide (64 ≤ s.toNat) :=
  s.msb_eq_getLsbD_last.symm.trans s.msb_eq_decide

theorem bchClock_toNat (s : BitVec 7) (b : Bool) :
    (bchClock s b).toNat =
      (2 * s.toNat % 128) ^^^ (if (b ^^ decide (64 ≤ s.toNat)) = true then 0x45 else 0) := by
  rw [bchClock_eq_shift_xor, BitVec.toNat_xor, feedbackMask_toNat, getLsbD_six_eq_decide,
    BitVec.toNat_shiftLeft, Nat.shiftLeft_eq, Nat.mul_comm]

/-! ### bits as polynomials -/

/-- A bit as a constant polynomial. -/
noncomputable def bitPoly (b : Bool) : (ZMod 2)[X] := if b = true then 1 else 0

theorem bitPoly_xor (a b : Bool) : bitPoly (a ^^ b) = bitPoly a + bitPoly b := by
  cases a <;> cases b <;> simp [bitPoly, CharTwo.add_self_eq_zero]

/-- A string of bits as a polynomial, the first bit the highest coefficient. -/
noncomputable def messagePoly (bits : List Bool) : (ZMod 2)[X] :=
  ∑ j ∈ Finset.range bits.length, if bits.getD j false = true then X ^ (bits.length - 1 - j) else 0

theorem messagePoly_nil : messagePoly [] = 0 := rfl

theorem messagePoly_append_singleton (bits : List Bool) (b : Bool) :
    messagePoly (bits ++ [b]) = messagePoly bits * X + bitPoly b := by
  simp only [messagePoly, List.length_append, List.length_singleton, Finset.sum_range_succ,
    Finset.sum_mul]
  congr 1
  · refine Finset.sum_congr rfl fun j hj => ?_
    have hlt : j < bits.length := Finset.mem_range.1 hj
    rw [List.getD_append _ _ _ _ hlt, ite_mul, zero_mul, ← pow_succ]
    congr 2
    omega
  · simp [bitPoly]

/-- A value of the BCH register as a polynomial, bit `k` the coefficient of `x^k`. -/
noncomputable def registerPoly (s : BitVec 7) : (ZMod 2)[X] :=
  ∑ k ∈ Finset.range 7, if s.getLsbD k = true then X ^ k else 0

theorem registerPoly_zero : registerPoly 0 = 0 :=
  Finset.sum_eq_zero fun k _ => if_neg (by simp)

theorem registerPoly_xor (s t : BitVec 7) :
    registerPoly (s ^^^ t) = registerPoly s + registerPoly t := by
  rw [registerPoly, registerPoly, registerPoly, ← Finset.sum_add_distrib]
  refine Finset.sum_congr rfl fun k _ => ?_
  rw [BitVec.getLsbD_xor]
  cases s.getLsbD k <;> cases t.getLsbD k <;> simp [CharTwo.add_self_eq_zero]

theorem degree_registerPoly_lt (s : BitVec 7) : (registerPoly s).degree < 7 := by
  refine (degree_sum_le _ _).trans_lt ((Finset.sup_lt_iff (by decide)).2 fun k hk => ?_)
  split
  · rw [degree_X_pow]
    exact_mod_cast Finset.mem_range.1 hk
  · rw [degree_zero]
    decide

/-! ### the generator -/

/-- `g(x) = x^7 + x^6 + x^2 + 1` (41_bch.md R161). -/
noncomputable def bchGenerator : (ZMod 2)[X] := X ^ 7 + X ^ 6 + X ^ 2 + 1

theorem degree_bchGenerator : bchGenerator.degree = 7 := by
  unfold bchGenerator
  compute_degree!

theorem bchGenerator_monic : bchGenerator.Monic := by
  unfold bchGenerator
  monicity!

/-- The bits of the register that a shift keeps, as a polynomial. -/
noncomputable def registerLowPoly (s : BitVec 7) : (ZMod 2)[X] :=
  ∑ k ∈ Finset.range 6, if s.getLsbD k = true then X ^ k else 0

theorem registerPoly_eq_low_add_top (s : BitVec 7) :
    registerPoly s = registerLowPoly s + bitPoly (s.getLsbD 6) * X ^ 6 := by
  rw [registerPoly, registerLowPoly, Finset.sum_range_succ, bitPoly, ite_mul, one_mul, zero_mul]

theorem registerPoly_shiftLeft_eq_low_mul (s : BitVec 7) :
    registerPoly (s <<< 1) = registerLowPoly s * X := by
  have hlowest : (s <<< 1).getLsbD 0 = false := by simp
  rw [registerPoly, registerLowPoly, Finset.sum_range_succ' _ 6, hlowest, if_neg Bool.false_ne_true,
    add_zero, Finset.sum_mul]
  refine Finset.sum_congr rfl fun k hk => ?_
  have hlt : k < 6 := Finset.mem_range.1 hk
  have hbit : (s <<< 1).getLsbD (k + 1) = s.getLsbD k := by
    rw [BitVec.getLsbD_shiftLeft, decide_eq_true (by omega : k + 1 < 7)]
    rfl
  rw [hbit, ite_mul, zero_mul, pow_succ]

/-- Shifting multiplies by `x`, the bit shifted out added as `x^7` once more. -/
theorem registerPoly_shiftLeft (s : BitVec 7) :
    registerPoly (s <<< 1) = registerPoly s * X + bitPoly (s.getLsbD 6) * X ^ 7 := by
  rw [registerPoly_shiftLeft_eq_low_mul, registerPoly_eq_low_add_top]
  linear_combination -bitPoly (s.getLsbD 6) * X ^ 7 * (CharTwo.two_eq_zero (R := (ZMod 2)[X]))

theorem registerPoly_feedbackMask (fb : Bool) :
    registerPoly (feedbackMask fb) = bitPoly fb * (X ^ 7 + bchGenerator) := by
  cases fb with
  | false => exact registerPoly_zero.trans (zero_mul _).symm
  | true =>
    have htaps : registerPoly (feedbackMask true) = 1 + X ^ 2 + X ^ 6 := by
      simp [registerPoly, feedbackMask, Finset.sum_range_succ]
    rw [htaps, bitPoly, if_pos rfl, one_mul, bchGenerator]
    linear_combination -X ^ 7 * (CharTwo.two_eq_zero (R := (ZMod 2)[X]))

/-- One clock multiplies the register by `x`, adds the input bit at `x^7`, and reduces by the
generator. -/
theorem registerPoly_bchClock (s : BitVec 7) (b : Bool) :
    registerPoly (bchClock s b) =
      registerPoly s * X + bitPoly b * X ^ 7 + bitPoly (b ^^ s.getLsbD 6) * bchGenerator := by
  rw [bchClock_eq_shift_xor, registerPoly_xor, registerPoly_shiftLeft, registerPoly_feedbackMask,
    bitPoly_xor]
  linear_combination bitPoly (s.getLsbD 6) * X ^ 7 * (CharTwo.two_eq_zero (R := (ZMod 2)[X]))

theorem bchGenerator_dvd_message_sub_register (bits : List Bool) :
    bchGenerator ∣ messagePoly bits * X ^ 7 - registerPoly (bits.foldl bchClock 0) := by
  induction bits using List.reverseRecOn with
  | nil =>
    rw [List.foldl_nil, registerPoly_zero, messagePoly_nil, zero_mul, sub_zero]
    exact dvd_zero _
  | append_singleton bits b ih =>
    obtain ⟨q, hq⟩ := ih
    rw [List.foldl_append, List.foldl_cons, List.foldl_nil, messagePoly_append_singleton,
      registerPoly_bchClock]
    generalize bits.foldl bchClock 0 = s at hq
    exact ⟨q * X - bitPoly (b ^^ s.getLsbD 6), by linear_combination X * hq⟩

/-- The register holds the remainder of the message: it differs from `m(x) * x^7` by a multiple of the
generator, and its degree is smaller. -/
theorem messagePoly_modByMonic_bchGenerator (bits : List Bool) :
    (messagePoly bits * X ^ 7) %ₘ bchGenerator = registerPoly (bits.foldl bchClock 0) := by
  rw [modByMonic_eq_of_dvd_sub bchGenerator_monic (bchGenerator_dvd_message_sub_register bits)]
  exact (modByMonic_eq_self_iff bchGenerator_monic).2
    (degree_bchGenerator ▸ degree_registerPoly_lt _)

/-- Settles O35: the clock as numbers (`bchClock_toNat`), the remainder by induction on the bits clocked in
(`messagePoly_modByMonic_bchGenerator`), and the table as eight clocks (`bchTable_eq_foldl`). -/
theorem bchRemainder : Obligations.BchRemainder :=
  ⟨bchClock_toNat, messagePoly_modByMonic_bchGenerator, bchTable_eq_foldl⟩

end Sys2Proof.Machine
end

section
/-! The BCH family (41_bch.md R164 to R167): every command of it completes by writing `BCH_SR` and
`RES[0]` alone, and in a row they compute the check byte of a block. -/

namespace Sys2Proof.Machine

variable {i : Instr} {s t : State}

/-! ### the check byte -/

theorem checkByte_toNat : ∀ r : BitVec 7, (checkByte r).toNat = 2 * (127 - r.toNat) := by decide

theorem checkByte_getLsbD_zero : ∀ r : BitVec 7, (checkByte r).getLsbD 0 = false := by decide

/-! ### one command -/

/-- A command that writes the register and one result, and leaves all else as before. -/
theorem completes_setBchSr_setRes {r : BitVec 7} {v : Value}
    (hexec : exec i s = complete s (finish ({ s with bchSr := r }.setRes 0 v))) :
    ∃ t, exec i s = .next t ∧ t.bchSr = r ∧ t.res[0] = v ∧ SameMem s t ∧ SameResFrom 1 s t ∧
      SameAsm s t ∧ SamePkt s t ∧ SameRest s t ∧ Answers t [] [] :=
  ⟨_, hexec, rfl, setRes_zero_res_zero _ v, fun _ _ => rfl,
    sameResFrom_one_setRes { s with bchSr := r } v, sameAsm_refl s, samePkt_refl s,
    ⟨rfl, rfl, rfl⟩, rfl⟩

theorem exec_bchStart (s : State) :
    exec .bchStart s = complete s (finish ({ s with bchSr := 0 }.setRes 0 0)) := rfl

theorem exec_bchStop (s : State) :
    exec .bchStop s = complete s (finish (s.setRes 0 ((checkByte s.bchSr).setWidth 64))) := rfl

theorem exec_bchStep_of_le {x : Scalar} (hx : x.toNat ≤ 255) :
    exec (.bchStep x) s = complete s (finish
      ({ s with bchSr := bchTable s.bchSr (x.setWidth 8) }.setRes 0
        ((bchTable s.bchSr (x.setWidth 8)).setWidth 64))) := by
  change complete s (byteValue x _) = _
  rw [byteValue_eq, if_pos hx]

theorem exec_bchStep_of_lt {x : Scalar} (hx : 255 < x.toNat) :
    exec (.bchStep x) s = complete s (.raised .badOperand (val x.toNat)) := by
  change complete s (byteValue x _) = _
  rw [byteValue_eq, if_neg (Nat.not_le.2 hx)]

/-- Settles O33: what the commands write (`completes_setBchSr_setRes`, `completes_setRes`), and the operand
check of `BCH.STEP`. -/
theorem bchCommands : Obligations.BchCommands := by
  refine fun s => ⟨completes_setBchSr_setRes (exec_bchStart s), fun x hx => ?_,
    fun x hx => faults_of_raised rfl (by decide) (exec_bchStep_of_lt hx), ?_⟩
  · obtain ⟨t, hexec, hsr, hres, hframe⟩ := completes_setBchSr_setRes (exec_bchStep_of_le (s := s) hx)
    refine ⟨t, hexec, ?_, ?_, hframe⟩
    · rw [hsr, BitVec.ofNat_toNat]
    · rw [hres, hsr, BitVec.toNat_setWidth_of_le (by decide)]
  · obtain ⟨t, hexec, hres, hframe⟩ := completes_setRes (exec_bchStop s)
    refine ⟨t, hexec, ?_, hframe⟩
    rw [hres, BitVec.toNat_setWidth_of_le (by decide), checkByte_toNat]

/-! ### the commands in a row -/

theorem okNext_of_answers {p : Bytes} {e : List Event} (h : Answers t p e) :
    okNext (.next t) = some t := by
  rw [Answers] at h
  simp [okNext, h]

theorem runs_cons_of_answers {is : List Instr} {p : Bytes} {e : List Event}
    (hexec : exec i s = .next t) (hanswers : Answers t p e) : runs (i :: is) s = runs is t := by
  rw [runs, hexec, okNext_of_answers hanswers]

theorem byteOperand_toNat_le (b : Byte) : (b.setWidth 32 : Scalar).toNat ≤ 255 := by
  rw [BitVec.toNat_setWidth_of_le (by decide)]
  exact Nat.le_of_lt_succ b.isLt

/-- One `BCH.STEP` per byte folds the transition table over the bytes, whatever is run after it. -/
theorem runs_bchSteps_append (d : Bytes) (is : List Instr) (s : State) :
    ∃ t, runs (d.map (fun b => Instr.bchStep (b.setWidth 32)) ++ is) s = runs is t ∧
      t.bchSr = d.foldl bchTable s.bchSr ∧ SameMem s t := by
  induction d generalizing s with
  | nil => exact ⟨s, rfl, rfl, fun _ _ => rfl⟩
  | cons b d ih =>
    obtain ⟨u, hexec, hsr, -, hmem, -, -, -, -, hanswers⟩ :=
      completes_setBchSr_setRes (exec_bchStep_of_le (s := s) (byteOperand_toNat_le b))
    obtain ⟨t, hruns, hsr', hmem'⟩ := ih u
    refine ⟨t, ?_, ?_, fun j k => (hmem' j k).trans (hmem j k)⟩
    · rw [List.map_cons, List.cons_append, runs_cons_of_answers hexec hanswers, hruns]
    · rw [hsr', hsr, List.foldl_cons, BitVec.setWidth_setWidth_of_le _ (by decide), BitVec.setWidth_eq]

/-- Settles O36: `BCH.START` clears the register, the steps fold the table over the bytes
(`runs_bchSteps_append`), and `BCH.STOP` turns the register into the check byte. -/
theorem checkByteBySteps : Obligations.CheckByteBySteps := by
  refine fun s d => ⟨?_, checkByte_getLsbD_zero _⟩
  obtain ⟨s₀, hstart, hsr₀, -, hmem₀, -, -, -, -, hanswers₀⟩ :=
    completes_setBchSr_setRes (exec_bchStart s)
  obtain ⟨s₁, hsteps, hsr₁, hmem₁⟩ := runs_bchSteps_append d [.bchStop] s₀
  obtain ⟨t, hstop, hres, hmem, -, ⟨hsr, -⟩, hanswers⟩ := completes_setRes (exec_bchStop s₁)
  have hfold : t.bchSr = d.foldl bchTable 0 := by rw [hsr, hsr₁, hsr₀]
  refine ⟨t, ?_, ?_, ?_, hfold, fun j k => ?_⟩
  · rw [List.append_assoc, List.singleton_append, runs_cons_of_answers hstart hanswers₀, hsteps,
      runs_cons_of_answers hstop hanswers, runs]
  · rw [hres, BitVec.toNat_setWidth_of_le (by decide), ← hsr, hfold, bchCheck]
  · rw [hfold, bchCheck, checkByte_toNat]
  · rw [hmem, hmem₁, hmem₀]

end Sys2Proof.Machine
end

section
/-! Bit errors in a code block (41_bch.md R168): an inverted bit adds to the parity of its block a power of
`x` modulo the generator that depends on its place alone, and the 63 powers are distinct. -/

namespace Sys2Proof.Machine

/-! ### powers of `x` modulo the generator -/

/-- One clock with input 0: multiplication by `x` modulo the generator. -/
def bchShift (r : BitVec 7) : BitVec 7 := bchClock r false

/-- `x^n` modulo the generator. -/
def bchPower (n : ℕ) : BitVec 7 := bchShift^[n] 1

theorem bchShift_injective : Function.Injective bchShift := bchClock_injective false

theorem bchShift_iterate_zero (n : ℕ) : bchShift^[n] 0 = 0 := Function.iterate_fixed rfl n

theorem bchShift_iterate_bchPower (m n : ℕ) : bchShift^[m] (bchPower n) = bchPower (m + n) :=
  (Function.iterate_add_apply bchShift m n 1).symm

theorem bchPower_ne_zero (n : ℕ) : bchPower n ≠ 0 := fun h =>
  absurd (bchShift_injective.iterate n (h.trans (bchShift_iterate_zero n).symm)) (by decide)

theorem bchPower_ne_one : ∀ n < 63, 0 < n → bchPower n ≠ 1 := by decide

/-- The order of `x` modulo the generator is not below 63, so the powers below it are distinct. -/
theorem bchPower_injOn {m n : ℕ} (hm : m < 63) (hn : n < 63) (h : bchPower m = bchPower n) : m = n := by
  wlog hle : m ≤ n generalizing m n
  · exact (this hn hm h.symm (Nat.le_of_not_le hle)).symm
  by_contra hne
  have hfactor : bchShift^[m] (bchPower (n - m)) = bchShift^[m] 1 := by
    rw [bchShift_iterate_bchPower, Nat.add_sub_cancel' hle, ← h, bchPower]
  exact bchPower_ne_one (n - m) (by omega) (by omega) (bchShift_injective.iterate m hfactor)

/-! ### an error in the data bytes -/

theorem bchTable_zero_byte (r : BitVec 7) : bchTable r 0 = bchShift^[8] r := rfl

/-- A single bit of a byte is a power of `x`. -/
theorem bchTable_twoPow : ∀ k < 8, bchTable 0 (BitVec.twoPow 8 k) = bchPower (k + 7) := by decide

theorem foldl_bchTable_xor_state (d : Bytes) (r u : BitVec 7) :
    d.foldl bchTable (r ^^^ u) = d.foldl bchTable r ^^^ bchShift^[8 * d.length] u := by
  induction d generalizing r u with
  | nil => rfl
  | cons b d ih =>
    rw [List.foldl_cons, bchTable_xor_state, bchTable_zero_byte, ih,
      ← Function.iterate_add_apply, List.foldl_cons, List.length_cons, Nat.mul_succ]

/-- Inverting bit `k` of byte `j` adds to the register the power of `x` at the place of that bit. -/
theorem foldl_bchTable_set_xor_twoPow (d : Bytes) {j k : ℕ} (hj : j < d.length) (hk : k < 8)
    (r : BitVec 7) :
    (d.set j (d.getD j 0 ^^^ BitVec.twoPow 8 k)).foldl bchTable r =
      d.foldl bchTable r ^^^ bchPower (8 * (d.length - 1 - j) + k + 7) := by
  induction d generalizing j r with
  | nil => cases hj
  | cons b d ih =>
    cases j with
    | zero =>
      rw [List.set_cons_zero, List.getD_cons_zero, List.foldl_cons, bchTable_xor_byte,
        bchTable_twoPow k hk, foldl_bchTable_xor_state,
        bchShift_iterate_bchPower]
      rfl
    | succ j =>
      have hlength : (b :: d).length - 1 - (j + 1) = d.length - 1 - j := by
        rw [List.length_cons]
        omega
      rw [List.set_cons_succ, List.getD_cons_succ, List.foldl_cons, ih (Nat.lt_of_succ_lt_succ hj),
        hlength, List.foldl_cons]

/-! ### the parity of a block -/

/-- A register value in the upper seven bits of a byte, where the check byte holds it. -/
def upperBits (r : BitVec 7) : Byte := r.setWidth 8 <<< 1

theorem upperBits_toNat : ∀ r : BitVec 7, (upperBits r).toNat = 2 * r.toNat := by decide

theorem upperBits_injective : Function.Injective upperBits := fun r u h => by
  have htwice : 2 * r.toNat = 2 * u.toNat := by rw [← upperBits_toNat, h, upperBits_toNat]
  exact BitVec.eq_of_toNat_eq (by omega)

theorem upperBits_ne_one : ∀ r : BitVec 7, upperBits r ≠ 1 := by decide

theorem checkByte_eq_upperBits_xor : ∀ r : BitVec 7, checkByte r = upperBits r ^^^ 0xFE := by decide

theorem checkByte_xor (r u : BitVec 7) : checkByte (r ^^^ u) = checkByte r ^^^ upperBits u := by
  simp only [checkByte_eq_upperBits_xor, upperBits, BitVec.setWidth_xor, BitVec.shiftLeft_xor_distrib]
  ac_rfl

/-- What the 8th byte of a block differs by from its check byte: 0 exactly when the block passes
(42_cltu.md R178). -/
def blockParity (w : Bytes) : Byte := bchCheck (w.take 7) ^^^ w.getD 7 0

theorem blockParity_eq_zero_iff (w : Bytes) : blockParity w = 0 ↔ bchCheck (w.take 7) = w.getD 7 0 :=
  BitVec.xor_eq_zero_iff

/-- What inverting bit `p` of a block adds to its parity: a power of `x`, or, for the zero bit below the
seven check bits, that bit. -/
def bitSyndrome (p : ℕ) : Byte := if p < 63 then upperBits (bchPower (62 - p)) else 1

/-- The bits of the check byte stand for the powers `x^6` to `x^0`, and the zero bit for itself. -/
theorem bitSyndrome_checkBits : ∀ k < 8, bitSyndrome (63 - k) = BitVec.twoPow 8 k := by decide

theorem setByteBit_not_eq_xor_twoPow (c : Byte) {k : ℕ} (hk : k < 8) :
    setByteBit c k (!c.getLsbD k) = c ^^^ BitVec.twoPow 8 k := by
  refine BitVec.eq_of_getLsbD_eq fun j hj => ?_
  rw [setByteBit_getLsbD _ _ _ _ hk hj, BitVec.getLsbD_xor, BitVec.getLsbD_twoPow]
  by_cases hjk : j = k
  · simp [hjk, hk]
  · simp [hjk, Ne.symm hjk]

theorem flipBit_eq_set (d : Bytes) (p : ℕ) :
    flipBit d p = d.set (p / 8) (d.getD (p / 8) 0 ^^^ BitVec.twoPow 8 (7 - p % 8)) := by
  rw [flipBit, setBitAt, bitAt, setByteBit_not_eq_xor_twoPow _ (by omega)]

@[simp] theorem flipBit_length (d : Bytes) (p : ℕ) : (flipBit d p).length = d.length :=
  setBitAt_length d p _

theorem slice_flipBit_inside (d : Bytes) {off n p : ℕ} (hfrom : 8 * off ≤ p) (hto : p < 8 * (off + n)) :
    slice (flipBit d p) off n = flipBit (slice d off n) (p - 8 * off) := by
  have hbyte : (p - 8 * off) / 8 = p / 8 - off := by omega
  have hbit : (p - 8 * off) % 8 = p % 8 := by omega
  have hoffset : off + (p / 8 - off) = p / 8 := by omega
  rw [flipBit_eq_set, flipBit_eq_set, hbyte, hbit, slice_getD _ _ _ _ (by omega), hoffset, slice,
    List.drop_set, if_neg (by omega), List.take_set, slice]

theorem slice_flipBit_outside (d : Bytes) {off n p : ℕ} (h : p < 8 * off ∨ 8 * (off + n) ≤ p) :
    slice (flipBit d p) off n = slice d off n := by
  rw [flipBit_eq_set, slice, List.drop_set, slice]
  split
  · rfl
  · rw [List.take_set_of_le (by omega)]

theorem flipBit_getD_of_ne (d : Bytes) {p j : ℕ} (h : p / 8 ≠ j) :
    (flipBit d p).getD j 0 = d.getD j 0 := by
  rw [flipBit_eq_set, List.getD_eq_getElem?_getD, List.getElem?_set_ne h, ← List.getD_eq_getElem?_getD]

theorem flipBit_getD_self {d : Bytes} {p j : ℕ} (h : p / 8 = j) (hj : j < d.length) :
    (flipBit d p).getD j 0 = d.getD j 0 ^^^ BitVec.twoPow 8 (7 - p % 8) := by
  rw [flipBit_eq_set, h, List.getD_eq_getElem?_getD, List.getElem?_set_self hj]
  rfl

/-- Inverting a data bit of a block changes its check byte. -/
theorem bchCheck_flipBit {d : Bytes} {p : ℕ} (hp : p < 8 * d.length) :
    bchCheck (flipBit d p) = bchCheck d ^^^ upperBits (bchPower (8 * d.length + 6 - p)) := by
  have hplace : 8 * (d.length - 1 - p / 8) + (7 - p % 8) + 7 = 8 * d.length + 6 - p := by omega
  rw [bchCheck, flipBit_eq_set, foldl_bchTable_set_xor_twoPow _ (by omega) (by omega), hplace,
    checkByte_xor, bchCheck]

theorem blockParity_flipBit {w : Bytes} (hw : w.length = 8) {p : ℕ} (hp : p < 64) :
    blockParity (flipBit w p) = blockParity w ^^^ bitSyndrome p := by
  by_cases hdata : p < 56
  · have hlength : (w.take 7).length = 7 := by rw [List.length_take, hw]; rfl
    have htake : (flipBit w p).take 7 = flipBit (w.take 7) p :=
      slice_flipBit_inside w (off := 0) (Nat.zero_le p) hdata
    rw [blockParity, htake, bchCheck_flipBit (by omega), hlength, flipBit_getD_of_ne _ (by omega),
      blockParity, bitSyndrome, if_pos (by omega)]
    ac_rfl
  · have htake : (flipBit w p).take 7 = w.take 7 :=
      slice_flipBit_outside w (off := 0) (n := 7) (.inr (by omega))
    have hplace : 63 - (7 - p % 8) = p := by omega
    rw [blockParity, htake, flipBit_getD_self (by omega) (by omega), blockParity, BitVec.xor_assoc,
      ← bitSyndrome_checkBits _ (by omega), hplace]

/-! ### the syndromes of the bits of a block -/

theorem bitSyndrome_ne_zero (p : ℕ) : bitSyndrome p ≠ 0 := by
  rw [bitSyndrome]
  split
  · exact fun h => bchPower_ne_zero _ (upperBits_injective h)
  · decide

theorem bitSyndrome_injOn {p q : ℕ} (hp : p < 64) (hq : q < 64) (h : bitSyndrome p = bitSyndrome q) :
    p = q := by
  rw [bitSyndrome, bitSyndrome] at h
  split_ifs at h with hp63 hq63 hq63
  · have := bchPower_injOn (by omega) (by omega) (upperBits_injective h)
    omega
  · exact absurd h (upperBits_ne_one _)
  · exact absurd h.symm (upperBits_ne_one _)
  · omega

end Sys2Proof.Machine
end

section
/-! A damaged code block in a CLTU (42_cltu.md R178): the validation finds the first block whose parity is
not 0, and inverting one or two bits of a block leaves every other check of the CLTU as it was. -/

namespace Sys2Proof.Machine

/-! ### the validation of the blocks -/

/-- The 8 bytes of code block `i` of a CLTU (30_encoding.md R106). -/
def blockAt (c : Bytes) (i : ℕ) : Bytes := slice c (2 + 8 * i) 8

theorem slice_take (d : Bytes) {off m n : ℕ} (h : m ≤ n) : (slice d off n).take m = slice d off m := by
  rw [slice, List.take_take, Nat.min_eq_left h, slice]

theorem blockParity_blockAt_eq_zero_iff (c : Bytes) (i : ℕ) :
    blockParity (blockAt c i) = 0 ↔ bchCheck (slice c (2 + 8 * i) 7) = c.getD (9 + 8 * i) 0 := by
  have hoffset : 2 + 8 * i + 7 = 9 + 8 * i := by omega
  rw [blockParity_eq_zero_iff, blockAt, slice_take _ (by decide), slice_getD _ _ _ _ (by decide), hoffset]

theorem firstBadBlock_succ (k i : ℕ) (body : Bytes) :
    firstBadBlock (k + 1) i body =
      if blockParity (slice body 0 8) = 0 then firstBadBlock k (i + 1) (body.drop 8) else some i := by
  simp only [firstBadBlock, blockParity_eq_zero_iff, slice_take body (by decide : 7 ≤ 8),
    slice_getD body 0 8 7 (by decide)]
  rfl

/-- The first block with a parity other than 0, where there is one. -/
theorem firstBadBlock_eq_some {k b : ℕ} (hb : b < k) (i : ℕ) (body : Bytes)
    (hbefore : ∀ a < b, blockParity (slice body (8 * a) 8) = 0)
    (hbad : blockParity (slice body (8 * b) 8) ≠ 0) : firstBadBlock k i body = some (i + b) := by
  obtain ⟨k, rfl⟩ : ∃ m, k = m + 1 := Nat.exists_eq_succ_of_ne_zero (Nat.ne_zero_of_lt hb)
  induction b generalizing k i body with
  | zero => exact (firstBadBlock_succ k i body).trans (if_neg hbad)
  | succ b ih =>
    obtain ⟨k, rfl⟩ : ∃ m, k = m + 1 := Nat.exists_eq_succ_of_ne_zero (by omega)
    have hnext (a : ℕ) : slice (body.drop 8) (8 * a) 8 = slice body (8 * (a + 1)) 8 := by
      rw [slice, List.drop_drop, Nat.add_comm 8, ← Nat.mul_succ, slice]
    have hrest := ih (i + 1) (body.drop 8) (fun a ha => by rw [hnext, hbefore _ (by omega)])
      (by rwa [hnext]) k (by omega)
    rw [firstBadBlock_succ, if_pos (hbefore 0 (by omega)), hrest, Nat.add_assoc, Nat.add_comm 1]

/-- A CLTU with both markers, whose first damaged block is `b`. -/
theorem cltuValidate_eq_bchMismatch {c : Bytes} {k b : ℕ} (hlength : c.length = 10 + 8 * k)
    (hstart : c.take 2 = cltuStart) (htrailer : c.drop (2 + 8 * k) = cltuTrailer) (hb : b < k)
    (hbefore : ∀ a < b, blockParity (blockAt c a) = 0) (hbad : blockParity (blockAt c b) ≠ 0) :
    cltuValidate c = .error (.bchMismatch, b) := by
  have hslice (a : ℕ) : slice (c.drop 2) (8 * a) 8 = blockAt c a := by
    rw [slice, List.drop_drop, blockAt, slice]
  have hfirst : firstBadBlock k 0 (c.drop 2) = some (0 + b) :=
    firstBadBlock_eq_some hb 0 (c.drop 2) (fun a ha => by rw [hslice, hbefore a ha]) (by rwa [hslice])
  have hcount : (c.length - 10) / 8 = k := by omega
  have hend : c.length - 8 = 2 + 8 * k := by omega
  simp only [cltuValidate]
  rw [if_neg (by omega), if_neg (by omega), if_neg (not_not.2 hstart), hend, if_neg (not_not.2 htrailer),
    hcount, hfirst, Nat.zero_add]

theorem exec_cltuDec_of_validate_error {s : State} {bd bs : BufIx} {r : Reason} {a : ℕ}
    (hbs : bs.toNat < s.cfg.nbuf) (hbd : bd.toNat < s.cfg.nbuf)
    (h : cltuValidate (s.buf bs) = .error (r, a)) :
    exec (.cltuDec bd bs) s = complete s (.raised r (val a)) := by
  change complete s (usesBuf s bs (usesBuf s bd _)) = _
  rw [usesBuf_of_lt hbs, usesBuf_of_lt hbd, h]

theorem exec_cltuChk_of_validate_error {s : State} {bs : BufIx} {r : Reason} {a : ℕ}
    (hbs : bs.toNat < s.cfg.nbuf) (h : cltuValidate (s.buf bs) = .error (r, a)) :
    exec (.cltuChk bs) s = complete s (.raised r (val a)) := by
  change complete s (usesBuf s bs _) = _
  rw [usesBuf_of_lt hbs, h]

/-! ### damage inside one block -/

/-- `d` is as long as `c` and has the same bytes outside code block `i`. -/
structure SameOutsideBlock (i : ℕ) (c d : Bytes) : Prop where
  length : d.length = c.length
  slices : ∀ off n, off + n ≤ 2 + 8 * i ∨ 10 + 8 * i ≤ off → slice d off n = slice c off n

theorem SameOutsideBlock.trans {i : ℕ} {c d e : Bytes} (h : SameOutsideBlock i c d)
    (h' : SameOutsideBlock i d e) : SameOutsideBlock i c e :=
  ⟨h'.length.trans h.length, fun off n hoff => (h'.slices off n hoff).trans (h.slices off n hoff)⟩

/-- Bit `p` of a CLTU lies in code block `i`. -/
def InBlock (i p : ℕ) : Prop := 16 + 64 * i ≤ p ∧ p < 16 + 64 * (i + 1)

theorem sameOutsideBlock_flipBit {i p : ℕ} (hp : InBlock i p) (c : Bytes) :
    SameOutsideBlock i c (flipBit c p) := by
  obtain ⟨hfrom, hto⟩ := hp
  exact ⟨flipBit_length c p, fun off n hoff => slice_flipBit_outside c (by omega)⟩

theorem blockParity_blockAt_flipBit {c : Bytes} {i p : ℕ} (hp : InBlock i p)
    (hlength : 10 + 8 * i ≤ c.length) :
    blockParity (blockAt (flipBit c p) i) =
      blockParity (blockAt c i) ^^^ bitSyndrome (p - (16 + 64 * i)) := by
  obtain ⟨hfrom, hto⟩ := hp
  have hplace : p - 8 * (2 + 8 * i) = p - (16 + 64 * i) := by omega
  have hblock : (blockAt c i).length = 8 := by
    rw [blockAt, slice_length]
    omega
  rw [blockAt, slice_flipBit_inside c (by omega) (by omega), hplace]
  exact blockParity_flipBit hblock (by omega)

/-- One or two inverted bits leave the parity of the block other than 0: a syndrome is not 0, and two
syndromes are not the same. -/
theorem blockParity_damaged_ne_zero {c : Bytes} {i p q : ℕ} (hp : InBlock i p) (hq : InBlock i q)
    (hlength : 10 + 8 * i ≤ c.length) (hgood : blockParity (blockAt c i) = 0) :
    blockParity (blockAt (if p = q then flipBit c p else flipBit (flipBit c p) q) i) ≠ 0 := by
  split
  · rw [blockParity_blockAt_flipBit hp hlength, hgood]
    simpa using bitSyndrome_ne_zero _
  · next hpq =>
    have hdistinct : bitSyndrome (p - (16 + 64 * i)) ≠ bitSyndrome (q - (16 + 64 * i)) := fun h => by
      obtain ⟨hpfrom, hpto⟩ := hp
      obtain ⟨hqfrom, hqto⟩ := hq
      have := bitSyndrome_injOn (by omega) (by omega) h
      omega
    rw [blockParity_blockAt_flipBit hq (by rwa [flipBit_length]), blockParity_blockAt_flipBit hp hlength,
      hgood]
    simpa using hdistinct

theorem sameOutsideBlock_damaged {i p q : ℕ} (hp : InBlock i p) (hq : InBlock i q) (c : Bytes) :
    SameOutsideBlock i c (if p = q then flipBit c p else flipBit (flipBit c p) q) := by
  split
  · exact sameOutsideBlock_flipBit hp c
  · exact (sameOutsideBlock_flipBit hp c).trans (sameOutsideBlock_flipBit hq _)

/-- A CLTU that passed before one of its blocks was damaged is reported with that block. -/
theorem cltuValidate_of_damaged_block {c d : Bytes} {k i : ℕ} (hgood : CltuGood c k) (hi : i < k)
    (hsame : SameOutsideBlock i c d) (hbad : blockParity (blockAt d i) ≠ 0) :
    cltuValidate d = .error (.bchMismatch, i) := by
  obtain ⟨hlength, hstart, htrailer, hblocks⟩ := hgood
  refine cltuValidate_eq_bchMismatch (hsame.length.trans hlength) ?_ ?_ hi (fun a ha => ?_) hbad
  · exact (hsame.slices 0 2 (.inl (by omega))).trans hstart
  · have htail (e : Bytes) (he : e.length = 10 + 8 * k) : slice e (2 + 8 * k) 8 = e.drop (2 + 8 * k) :=
      List.take_of_length_le (by rw [List.length_drop]; omega)
    rw [← htail d (hsame.length.trans hlength), hsame.slices _ _ (.inr (by omega)), htail c hlength]
    exact htrailer
  · rw [blockAt, hsame.slices _ _ (.inl (by omega)), ← blockAt, blockParity_blockAt_eq_zero_iff]
    exact hblocks a (ha.trans hi)

/-- Settles O41: the damaged block has a parity other than 0 (`blockParity_damaged_ne_zero`) and all other
checks pass as before, so both commands report it (`cltuValidate_of_damaged_block`). -/
theorem cltuBitErrorsFound : Obligations.CltuBitErrorsFound := by
  intro s bd bs c k i p q hbs hbd hgood hi hpfrom hpto hqfrom hqto hbuf
  have hp : InBlock i p := ⟨hpfrom, hpto⟩
  have hq : InBlock i q := ⟨hqfrom, hqto⟩
  have hparity : blockParity (blockAt c i) = 0 := by
    obtain ⟨-, -, -, hblocks⟩ := hgood
    exact (blockParity_blockAt_eq_zero_iff c i).2 (hblocks i hi)
  have hlength : 10 + 8 * i ≤ c.length := by
    obtain ⟨hlength, -⟩ := hgood
    omega
  have hvalidate : cltuValidate (s.buf bs) = .error (.bchMismatch, i) := by
    rw [hbuf]
    exact cltuValidate_of_damaged_block hgood hi (sameOutsideBlock_damaged hp hq c)
      (blockParity_damaged_ne_zero hp hq hlength hparity)
  exact ⟨faults_of_raised rfl (by decide) (exec_cltuDec_of_validate_error hbs hbd hvalidate),
    faults_of_raised rfl (by decide) (exec_cltuChk_of_validate_error hbs hvalidate)⟩

end Sys2Proof.Machine
end

section
/-! `CLTU.ENC` (42_cltu.md R176, R177): where each block of the frame stands in its CLTU, and how the
command completes. -/

namespace Sys2Proof.Machine

variable {i : Instr} {s : State}

/-! ### the index checks of a command with two buffers -/

theorem needsBuf_of_first_operand {a : BufIx} {ops : List BufIx} (hops : bufOperands i = a :: ops) :
    NeedsBuf i s a := fun ha =>
  exec_of_missing_buffer (by rw [hops, List.find?_cons_of_pos (by simpa using ha)])

theorem needsBuf_of_second_operand {a b : BufIx} (hops : bufOperands i = [a, b])
    (ha : a.toNat < s.cfg.nbuf) : NeedsBuf i s b := fun hb =>
  exec_of_missing_buffer (by
    rw [hops, List.find?_cons_of_neg (by simpa using ha), List.find?_cons_of_pos (by simpa using hb)])

/-! ### one code block -/

theorem slice_getD_default (d : Bytes) {off n j : ℕ} (hj : j < n) (e : Byte) :
    (slice d off n).getD j e = d.getD (off + j) e := by
  rw [List.getD_eq_getElem?_getD, slice_getElem? d hj, List.getD_eq_getElem?_getD]

theorem slice_add (d : Bytes) (m off n : ℕ) : slice d (m + off) n = slice (d.drop m) off n := by
  rw [slice, slice, List.drop_drop]

theorem slice_length_le (d : Bytes) (off n : ℕ) : (slice d off n).length ≤ n :=
  List.length_take_le n _

/-- A run of bytes filled with 0x55 up to `m` bytes (30_encoding.md R107). -/
def fillTo (m : ℕ) (g : Bytes) : Bytes := g ++ List.replicate (m - g.length) 0x55

theorem fillTo_length {m : ℕ} {g : Bytes} (hg : g.length ≤ m) : (fillTo m g).length = m := by
  rw [fillTo, List.length_append, List.length_replicate, Nat.add_sub_cancel' hg]

theorem fillTo_getD {m j : ℕ} (g : Bytes) (hj : j < m) : (fillTo m g).getD j 0 = g.getD j 0x55 := by
  rw [fillTo]
  by_cases hin : j < g.length
  · rw [List.getD_append _ _ _ _ hin, List.getD_eq_getElem _ _ hin, List.getD_eq_getElem _ _ hin]
  · rw [List.getD_append_right _ _ _ _ (Nat.le_of_not_lt hin), List.getD_replicate _ (by omega),
      List.getD_eq_default _ _ (Nat.le_of_not_lt hin)]

theorem codeBlock_eq (g : Bytes) : codeBlock g = fillTo 7 g ++ [bchCheck (fillTo 7 g)] := rfl

theorem codeBlock_getD {g : Bytes} (hg : g.length ≤ 7) {j : ℕ} (hj : j < 7) :
    (codeBlock g).getD j 0 = g.getD j 0x55 := by
  rw [codeBlock_eq, List.getD_append _ _ _ _ (by rwa [fillTo_length hg]), fillTo_getD g hj]

/-- The block of a group passes the check of R178. -/
theorem blockParity_codeBlock {g : Bytes} (hg : g.length ≤ 7) : blockParity (codeBlock g) = 0 := by
  have hlength := fillTo_length hg
  rw [blockParity_eq_zero_iff, codeBlock_eq, List.take_left' hlength,
    List.getD_append_right _ _ _ _ hlength.le, hlength]
  rfl

/-! ### the blocks of a frame -/

theorem slice_codeBlocks_append {k b : ℕ} (hb : b < k) (f rest : Bytes) :
    slice (codeBlocks k f ++ rest) (8 * b) 8 = codeBlock (slice f (7 * b) 7) := by
  obtain ⟨k, rfl⟩ : ∃ m, k = m + 1 := Nat.exists_eq_succ_of_ne_zero (Nat.ne_zero_of_lt hb)
  have hfirst : (codeBlock (f.take 7)).length = 8 := codeBlock_length _ (List.length_take_le 7 f)
  rw [codeBlocks, List.append_assoc]
  induction b generalizing k f with
  | zero => exact List.take_left' hfirst
  | succ b ih =>
    obtain ⟨k, rfl⟩ : ∃ m, k = m + 1 := Nat.exists_eq_succ_of_ne_zero (by omega)
    rw [Nat.mul_succ, Nat.add_comm _ 8, slice_add, List.drop_left' hfirst, codeBlocks,
      List.append_assoc,
      ih (f.drop 7) k (by omega) (codeBlock_length _ (List.length_take_le 7 _)), Nat.mul_succ,
      Nat.add_comm _ 7, slice_add]

theorem cltuEncode_drop_start (f : Bytes) :
    (cltuEncode f).drop 2 = codeBlocks (blockCount f.length) f ++ cltuTrailer := by
  rw [cltuEncode, List.append_assoc]
  rfl

/-- Block `b` of the CLTU of a frame is the block of its group `b` (30_encoding.md R106). -/
theorem blockAt_cltuEncode (f : Bytes) {b : ℕ} (hb : b < blockCount f.length) :
    blockAt (cltuEncode f) b = codeBlock (slice f (7 * b) 7) := by
  rw [blockAt, slice_add, cltuEncode_drop_start, slice_codeBlocks_append hb]

theorem cltuEncode_getD (f : Bytes) {b j : ℕ} (hb : b < blockCount f.length) (hj : j < 7) :
    (cltuEncode f).getD (2 + 8 * b + j) 0 = f.getD (7 * b + j) 0x55 := by
  calc (cltuEncode f).getD (2 + 8 * b + j) 0
      = (blockAt (cltuEncode f) b).getD j 0 := (slice_getD _ _ _ _ (by omega)).symm
    _ = (slice f (7 * b) 7).getD j 0x55 := by
      rw [blockAt_cltuEncode f hb, codeBlock_getD (slice_length_le f _ _) hj]
    _ = f.getD (7 * b + j) 0x55 := slice_getD_default f hj _

/-- The four conditions, the last one by the parities of the blocks. -/
theorem cltuGood_iff {c : Bytes} {k : ℕ} :
    CltuGood c k ↔ c.length = 10 + 8 * k ∧ c.take 2 = cltuStart ∧ c.drop (2 + 8 * k) = cltuTrailer ∧
      ∀ b < k, blockParity (blockAt c b) = 0 := by
  simp only [blockParity_blockAt_eq_zero_iff]
  rfl

/-- What `CLTU.ENC` builds passes every check of R178. -/
theorem cltuGood_cltuEncode (f : Bytes) : CltuGood (cltuEncode f) (blockCount f.length) := by
  have hbody : (cltuStart ++ codeBlocks (blockCount f.length) f).length =
      2 + 8 * blockCount f.length := by
    rw [List.length_append, codeBlocks_length]
    rfl
  refine cltuGood_iff.2 ⟨cltuEncode_length f, ?_, List.drop_left' hbody, fun b hb => ?_⟩
  · rw [cltuEncode, List.append_assoc]
    rfl
  · rw [blockAt_cltuEncode f hb]
    exact blockParity_codeBlock (slice_length_le f _ _)

/-! ### the command -/

/-- Once its source exists, the command replaces its destination by the CLTU. -/
theorem replacesBuf_cltuEnc {bs : BufIx} (bd : BufIx) (hbs : bs.toNat < s.cfg.nbuf) :
    ReplacesBuf (.cltuEnc bd bs) s bd (10 + 8 * blockCount (s.buf bs).length)
      (cltuEncode (s.buf bs)) := by
  rw [ReplacesBuf]
  change complete s (usesBuf s bs (usesBuf s bd (replaceBuf _ _ _ _ _))) = _
  rw [usesBuf_of_lt hbs, replaceBuf_eq, replaceBuf_eq, buf_setBuf_self, cltuEncode_length]

/-- Settles O37: the command replaces its buffer (`replacesBuf_cltuEnc`) by a CLTU that passes the checks
(`cltuGood_cltuEncode`) and holds the frame byte by byte (`cltuEncode_getD`). -/
theorem cltuEncLayout : Obligations.CltuEncLayout := by
  intro s bd bs
  refine ⟨needsBuf_of_first_operand rfl, needsBuf_of_second_operand rfl, fun hbs hbd =>
    ⟨(replacesBuf_cltuEnc bd hbs).capacity hbd, fun hcap => ?_⟩⟩
  obtain ⟨t, hexec, hbuf, hframe⟩ := (replacesBuf_cltuEnc bd hbs).completes hbd hcap
  obtain ⟨hlength, hstart, htrailer, hchecks⟩ := cltuGood_cltuEncode (s.buf bs)
  rw [← hbuf] at hlength hstart htrailer hchecks
  refine ⟨t, hexec, hlength, hstart, htrailer, fun b hb j hj => ?_, fun b hb => (hchecks b hb).symm,
    hframe⟩
  rw [hbuf]
  exact cltuEncode_getD _ hb hj

end Sys2Proof.Machine
end

section
/-! `cltu_validate` (42_cltu.md R178): one lemma per check that fails, and that it accepts exactly the
sequences that `CltuGood` describes; then `CLTU.DEC` and `CLTU.CHK`, which both validate first. -/

namespace Sys2Proof.Machine

variable {c : Bytes} {k : ℕ}

/-! ### the checks, in their order -/

theorem cltuValidate_of_short (hshort : c.length < 10) :
    cltuValidate c = .error (.cltuTooShort, c.length) :=
  if_pos hshort

theorem cltuValidate_of_badLength (hlong : ¬ c.length < 10) (hlength : (c.length - 10) % 8 ≠ 0) :
    cltuValidate c = .error (.cltuBadLength, c.length) :=
  (if_neg hlong).trans (if_pos hlength)

/-- Past the length checks the number of blocks is known, and the length with it. -/
theorem length_eq_of_checked (hlong : ¬ c.length < 10) (hlength : ¬ (c.length - 10) % 8 ≠ 0) :
    c.length = 10 + 8 * ((c.length - 10) / 8) := by omega

theorem cltuValidate_of_badStart (hlength : c.length = 10 + 8 * k) (hstart : c.take 2 ≠ cltuStart) :
    cltuValidate c = .error (.cltuBadStart, be (c.take 2)) :=
  (if_neg (by omega)).trans <| (if_neg (by omega)).trans <| if_pos hstart

theorem cltuValidate_of_badTrailer (hlength : c.length = 10 + 8 * k) (hstart : c.take 2 = cltuStart)
    (htrailer : c.drop (2 + 8 * k) ≠ cltuTrailer) : cltuValidate c = .error (.cltuBadTrailer, 0) := by
  have hend : c.length - 8 = 2 + 8 * k := by omega
  rw [← hend] at htrailer
  exact (if_neg (by omega)).trans <| (if_neg (by omega)).trans <|
    (if_neg (not_not.2 hstart)).trans <| if_pos htrailer

theorem firstBadBlock_eq_none {i : ℕ} {body : Bytes}
    (hgood : ∀ a < k, blockParity (slice body (8 * a) 8) = 0) : firstBadBlock k i body = none := by
  induction k generalizing i body with
  | zero => rfl
  | succ k ih =>
    rw [firstBadBlock_succ, if_pos (hgood 0 k.succ_pos)]
    refine ih fun a ha => ?_
    rw [← slice_add, Nat.add_comm, ← Nat.mul_succ]
    exact hgood (a + 1) (Nat.succ_lt_succ ha)

/-- A CLTU that fails no check: its number of blocks. -/
theorem CltuGood.validate (h : CltuGood c k) : cltuValidate c = .ok k := by
  obtain ⟨hlength, hstart, htrailer, hblocks⟩ := cltuGood_iff.1 h
  have hfirst : firstBadBlock k 0 (c.drop 2) = none :=
    firstBadBlock_eq_none fun a ha => by
      rw [← slice_add]
      exact hblocks a ha
  have hcount : (c.length - 10) / 8 = k := by omega
  have hend : c.length - 8 = 2 + 8 * k := by omega
  simp only [cltuValidate]
  rw [if_neg (by omega), if_neg (by omega), if_neg (not_not.2 hstart), hend,
    if_neg (not_not.2 htrailer), hcount, hfirst]

/-! ### all that the validation can answer -/

/-- A reason that the validation of a CLTU gives (42_cltu.md R178). -/
def CltuReason (r : Reason) : Prop :=
  r = .cltuTooShort ∨ r = .cltuBadLength ∨ r = .cltuBadStart ∨ r = .cltuBadTrailer ∨ r = .bchMismatch

theorem CltuReason.statusOf_ne_ok {r : Reason} (h : CltuReason r) : statusOf r ≠ .ok := by
  obtain rfl | rfl | rfl | rfl | rfl := h <;> decide

/-- The CLTU passes, or the validation gives one of the five reasons. -/
theorem cltuGood_or_validate_error (c : Bytes) :
    (∃ k, CltuGood c k) ∨ ∃ r a, CltuReason r ∧ cltuValidate c = .error (r, a) := by
  by_cases hshort : c.length < 10
  · exact .inr ⟨_, _, .inl rfl, cltuValidate_of_short hshort⟩
  by_cases hmod : (c.length - 10) % 8 ≠ 0
  · exact .inr ⟨_, _, .inr (.inl rfl), cltuValidate_of_badLength hshort hmod⟩
  obtain ⟨k, hlength⟩ : ∃ k, c.length = 10 + 8 * k := ⟨_, length_eq_of_checked hshort hmod⟩
  by_cases hstart : c.take 2 ≠ cltuStart
  · exact .inr ⟨_, _, .inr (.inr (.inl rfl)), cltuValidate_of_badStart hlength hstart⟩
  rw [not_not] at hstart
  by_cases htrailer : c.drop (2 + 8 * k) ≠ cltuTrailer
  · exact .inr ⟨_, _, .inr (.inr (.inr (.inl rfl))),
      cltuValidate_of_badTrailer hlength hstart htrailer⟩
  rw [not_not] at htrailer
  by_cases hbad : ∃ b, b < k ∧ blockParity (blockAt c b) ≠ 0
  · obtain ⟨b, ⟨hb, hbad⟩, hfirst⟩ := Nat.findX hbad
    have hbefore : ∀ a < b, blockParity (blockAt c a) = 0 := fun a ha =>
      not_not.1 fun h => hfirst a ha ⟨ha.trans hb, h⟩
    exact .inr ⟨_, _, .inr (.inr (.inr (.inr rfl))),
      cltuValidate_eq_bchMismatch hlength hstart htrailer hb hbefore hbad⟩
  · exact .inl ⟨k, cltuGood_iff.2 ⟨hlength, hstart, htrailer, fun b hb =>
      not_not.1 fun h => hbad ⟨b, hb, h⟩⟩⟩

/-! ### the two commands -/

variable {s : State} {bd bs : BufIx}

/-- Both commands raise what the validation answers. -/
theorem faults_of_validate_error {i : Instr} {st : Status} {r : Reason} {a : ℕ}
    (hi : i ∈ [Instr.cltuDec bd bs, Instr.cltuChk bs]) (hbs : bs.toNat < s.cfg.nbuf)
    (hbd : bd.toNat < s.cfg.nbuf) (hvalidate : cltuValidate (s.buf bs) = .error (r, a))
    (hstatus : statusOf r = st) (hfault : st ≠ .ok) : Faults i s st r a := by
  refine faults_of_raised hstatus hfault ?_
  obtain rfl | rfl : i = .cltuDec bd bs ∨ i = .cltuChk bs := by simpa using hi
  · exact exec_cltuDec_of_validate_error hbs hbd hvalidate
  · exact exec_cltuChk_of_validate_error hbs hvalidate

theorem exec_cltuDec_of_good (hbs : bs.toNat < s.cfg.nbuf) (hbd : bd.toNat < s.cfg.nbuf)
    (hgood : CltuGood (s.buf bs) k) :
    exec (.cltuDec bd bs) s = complete s
      (finish ((s.setBuf bd (blockData k ((s.buf bs).drop 2))).setRes 0 (val (7 * k)))) := by
  change complete s (usesBuf s bs (usesBuf s bd _)) = _
  rw [usesBuf_of_lt hbs, usesBuf_of_lt hbd, hgood.validate]

theorem exec_cltuChk_of_good (hbs : bs.toNat < s.cfg.nbuf) (hgood : CltuGood (s.buf bs) k) :
    exec (.cltuChk bs) s = complete s (finish (s.setRes 0 (val k))) := by
  change complete s (usesBuf s bs _) = _
  rw [usesBuf_of_lt hbs, hgood.validate]

theorem be_take_two (hlength : 2 ≤ c.length) :
    be (c.take 2) = (c.getD 0 0).toNat * 256 + (c.getD 1 0).toNat := by
  match c, hlength with
  | x :: y :: _, _ => exact be_pair x y

/-- Settles O39: each check that fails, in the order of R178, is what the validation answers
(`cltuValidate_of_short` and the lemmas after it), and both commands raise it. -/
theorem cltuRejects : Obligations.CltuRejects := by
  intro s bd bs hbs hbd c n i hi
  split_ifs with hshort hmod hstart htrailer
  · exact faults_of_validate_error hi hbs hbd (cltuValidate_of_short hshort) rfl (by decide)
  · exact faults_of_validate_error hi hbs hbd (cltuValidate_of_badLength hshort hmod) rfl (by decide)
  all_goals
    have hlength : c.length = 10 + 8 * ((n - 10) / 8) := length_eq_of_checked hshort hmod
    have hend : n - 8 = 2 + 8 * ((n - 10) / 8) := by omega
  · rw [← be_take_two (by omega)]
    exact faults_of_validate_error hi hbs hbd (cltuValidate_of_badStart hlength hstart) rfl (by decide)
  · rw [hend] at htrailer
    exact faults_of_validate_error hi hbs hbd
      (cltuValidate_of_badTrailer hlength (not_not.1 hstart) htrailer) rfl (by decide)
  · rw [hend, not_not] at htrailer
    rw [not_not] at hstart
    simp only [← blockParity_blockAt_eq_zero_iff]
    exact ⟨fun b hb hbefore hbad => faults_of_validate_error hi hbs hbd
        (cltuValidate_eq_bchMismatch hlength hstart htrailer hb hbefore
          (mt (blockParity_blockAt_eq_zero_iff c b).1 hbad)) rfl (by decide),
      fun hblocks => cltuGood_iff.2 ⟨hlength, hstart, htrailer, hblocks⟩⟩

/-! ### the groups of the blocks -/

theorem slice_blockData {b : ℕ} (hb : b < k) {body : Bytes} (hlength : 8 * k ≤ body.length) :
    slice (blockData k body) (7 * b) 7 = slice body (8 * b) 7 := by
  obtain ⟨k, rfl⟩ : ∃ m, k = m + 1 := Nat.exists_eq_succ_of_ne_zero (Nat.ne_zero_of_lt hb)
  have hfirst : (body.take 7).length = 7 := List.length_take_of_le (by omega)
  rw [blockData]
  induction b generalizing k body with
  | zero => exact List.take_left' hfirst
  | succ b ih =>
    obtain ⟨k, rfl⟩ : ∃ m, k = m + 1 := Nat.exists_eq_succ_of_ne_zero (by omega)
    have hrest : 8 * (k + 1) ≤ (body.drop 8).length := by
      rw [List.length_drop]
      omega
    rw [Nat.mul_succ, Nat.add_comm _ 7, slice_add, List.drop_left' hfirst, blockData,
      ih k (by omega) hrest (List.length_take_of_le (by omega)), Nat.mul_succ, Nat.add_comm _ 8,
      slice_add]

theorem blockData_length {body : Bytes} (hlength : 8 * k ≤ body.length) :
    (blockData k body).length = 7 * k := by
  induction k generalizing body with
  | zero => rfl
  | succ k ih =>
    have hrest : 8 * k ≤ (body.drop 8).length := by
      rw [List.length_drop]
      omega
    rw [blockData, List.length_append, ih hrest, List.length_take_of_le (by omega), Nat.mul_succ,
      Nat.add_comm]

theorem CltuGood.body_length (h : CltuGood c k) : 8 * k ≤ (c.drop 2).length := by
  obtain ⟨hlength, -⟩ := h
  rw [List.length_drop]
  omega

theorem CltuGood.blockData_getD (h : CltuGood c k) {b j : ℕ} (hb : b < k) (hj : j < 7) :
    (blockData k (c.drop 2)).getD (7 * b + j) 0 = c.getD (2 + 8 * b + j) 0 := by
  rw [← slice_getD _ _ 7 _ hj, slice_blockData hb h.body_length, ← slice_add, slice_getD _ _ _ _ hj]

/-- Settles O38: on a CLTU that passes, one command leaves the groups (`CltuGood.blockData_getD`) and the
other the number of blocks; on any other both raise what the validation answers. -/
theorem cltuAccepts : Obligations.CltuAccepts := by
  intro s bd bs
  refine ⟨needsBuf_of_first_operand rfl, needsBuf_of_second_operand rfl, needsBuf_of_operand rfl,
    fun hbs hbad => ?_, fun k hbs hgood =>
      ⟨fun hbd => ?_, completes_setRes (exec_cltuChk_of_good hbs hgood)⟩⟩
  · obtain ⟨k, hgood⟩ | ⟨r, a, hreason, hvalidate⟩ := cltuGood_or_validate_error (s.buf bs)
    · exact absurd hgood (hbad k)
    · exact ⟨r, a, hreason,
        faults_of_raised rfl hreason.statusOf_ne_ok (exec_cltuChk_of_validate_error hbs hvalidate),
        fun hbd => faults_of_raised rfl hreason.statusOf_ne_ok
          (exec_cltuDec_of_validate_error hbs hbd hvalidate)⟩
  · obtain ⟨t, hexec, hbuf, hframe⟩ := completes_setBuf_setRes (exec_cltuDec_of_good hbs hbd hgood)
    refine ⟨t, hexec, ?_, fun b hb j hj => ?_, hframe⟩
    · rw [hbuf, blockData_length hgood.body_length]
    · rw [hbuf, hgood.blockData_getD hb hj]

end Sys2Proof.Machine
end

section
/-! The round trip (42_cltu.md R182): what `CLTU.DEC` takes out of the blocks is what `CLTU.ENC` put into
them, the bytes of the frame and then fill bytes. -/

namespace Sys2Proof.Machine

theorem eq_fillTo_of_getD {d f : Bytes} {m : ℕ} (hlength : d.length = m) (hle : f.length ≤ m)
    (hbytes : ∀ j < m, d.getD j 0 = f.getD j 0x55) : d = fillTo m f := by
  refine List.ext_getElem (hlength.trans (fillTo_length hle).symm) fun j hd hf => ?_
  have hj : j < m := hlength ▸ hd
  rw [← List.getD_eq_getElem _ 0 hd, ← List.getD_eq_getElem _ 0 hf, hbytes j hj, fillTo_getD f hj]

/-- Settles O40: the layout of the CLTU (`cltuEncLayout`) makes it one that `CLTU.DEC` accepts, and the
bytes it leaves (`cltuAccepts`) are those that were laid out. -/
theorem cltuRoundTrip : Obligations.CltuRoundTrip := by
  intro s b0 b1 b2 h0 h1 h2 hcap
  set f := s.buf b0
  set k := (f.length + 6) / 7 with hk
  obtain ⟨-, -, henc⟩ := cltuEncLayout s b1 b0
  obtain ⟨-, hfits⟩ := henc h0 h1
  obtain ⟨u, henc, hlength, hstart, htrailer, hlaid, hchecks, -, -, -, hunits, hokEnc⟩ := hfits hcap
  have hgood : CltuGood (u.buf b1) k :=
    ⟨hlength, hstart, htrailer, fun b hb => (hchecks b hb).symm⟩
  rw [← hunits.cfg_eq] at h1 h2
  obtain ⟨-, -, -, -, haccepts⟩ := cltuAccepts u b2 b1
  obtain ⟨hdecodes, -⟩ := haccepts k h1 hgood
  obtain ⟨t, hdec, hlength, hgroups, -, -, -, -, hokDec⟩ := hdecodes h2
  have hbytes : ∀ j < 7 * k, (t.buf b2).getD j 0 = f.getD j 0x55 := fun j hj => by
    have hblock : j / 7 < k := Nat.div_lt_of_lt_mul hj
    have hplace : j % 7 < 7 := Nat.mod_lt j (by decide)
    rw [← Nat.div_add_mod j 7, hgroups _ hblock _ hplace, hlaid _ hblock _ hplace]
  have hbuf : t.buf b2 = fillTo (7 * k) f := eq_fillTo_of_getD hlength (by omega) hbytes
  refine ⟨t, ?_, ?_, hlength, ?_⟩
  · rw [runs_cons_of_answers henc hokEnc, runs_cons_of_answers hdec hokDec, runs]
  · rw [hbuf, fillTo, List.take_left]
  · rw [hbuf, fillTo, List.drop_left]
    exact fun _ => List.eq_of_mem_replicate

end Sys2Proof.Machine
end

section
/-! The CRC register (43_crc16.md R190): one clock is linear over GF(2) and invertible, so the same holds of
any run of clocks; sixteen clocks bring the register to 0 just when they clock in its own content. -/

namespace Sys2Proof.Machine

/-! ### one clock -/

/-- What the feedback bit adds to the shifted register: the mask of the taps {0, 5, 12}. -/
def crcMask (fb : Bool) : BitVec 16 := if fb then 0x1021 else 0

theorem crcMask_xor : ∀ a b : Bool, crcMask (a ^^ b) = crcMask a ^^^ crcMask b := by decide

theorem crcClock_eq_shift_xor (r : BitVec 16) (b : Bool) :
    crcClock r b = r <<< 1 ^^^ crcMask (b ^^ r.getLsbD 15) := by
  unfold crcClock crcMask
  split
  · rfl
  · exact BitVec.xor_zero.symm

theorem crcClock_xor (r u : BitVec 16) (b c : Bool) :
    crcClock (r ^^^ u) (b ^^ c) = crcClock r b ^^^ crcClock u c := by
  simp only [crcClock_eq_shift_xor, BitVec.shiftLeft_xor_distrib, BitVec.getLsbD_xor, crcMask_xor]
  ac_rfl

/-- Bit 0 after a clock is the feedback bit alone: the shift has brought in a 0. -/
theorem crcClock_getLsbD_zero (r : BitVec 16) (b : Bool) :
    (crcClock r b).getLsbD 0 = (b ^^ r.getLsbD 15) := by
  have hmask : ∀ fb, (crcMask fb).getLsbD 0 = fb := by decide
  rw [crcClock_eq_shift_xor, BitVec.getLsbD_xor, hmask]
  simp

theorem shiftLeft_one_getLsbD_succ (r : BitVec 16) {k : ℕ} (hk : k < 15) :
    (r <<< 1).getLsbD (k + 1) = r.getLsbD k := by
  rw [BitVec.getLsbD_shiftLeft, decide_eq_true (by omega : k + 1 < 16)]
  rfl

theorem eq_zero_of_crcClock_eq_zero {r : BitVec 16} (h : crcClock r false = 0) : r = 0 := by
  have htop : r.getLsbD 15 = false := by
    simpa [h] using (crcClock_getLsbD_zero r false).symm
  have hshift : r <<< 1 = 0 := by
    rwa [crcClock, htop, Bool.xor_self, if_neg Bool.false_ne_true] at h
  refine BitVec.eq_of_getLsbD_eq fun k hk => ?_
  have hzero (j : ℕ) : (0 : BitVec 16).getLsbD j = false := BitVec.getLsbD_zero
  rw [hzero]
  by_cases hlast : k = 15
  · rw [hlast, htop]
  · rw [← shiftLeft_one_getLsbD_succ r (by omega), hshift, hzero]

theorem crcClock_injective (b : Bool) : Function.Injective fun r => crcClock r b := by
  intro r u (h : crcClock r b = crcClock u b)
  have hdiff : crcClock (r ^^^ u) false = 0 := by
    rw [← Bool.xor_self b, crcClock_xor, h, BitVec.xor_self]
    rfl
  exact BitVec.xor_eq_zero_iff.1 (eq_zero_of_crcClock_eq_zero hdiff)

/-! ### any number of clocks -/

theorem foldl_crcClock_injective (bits : List Bool) :
    Function.Injective fun r => bits.foldl crcClock r := by
  induction bits with
  | nil => exact Function.injective_id
  | cons b bits ih => exact ih.comp (crcClock_injective b)

/-- The bits of two messages of one length added are the bits of the sum. -/
theorem foldl_crcClock_xor (js : List ℕ) (f g : ℕ → Bool) (r u : BitVec 16) :
    (js.map fun j => f j ^^ g j).foldl crcClock (r ^^^ u) =
      (js.map f).foldl crcClock r ^^^ (js.map g).foldl crcClock u := by
  induction js generalizing r u with
  | nil => rfl
  | cons j js ih => simp only [List.map_cons, List.foldl_cons, crcClock_xor, ih]

/-! ### sixteen clocks -/

/-- The bits of a 16-bit word, the most significant one first. -/
def wordBits (w : BitVec 16) : List Bool := (List.range 16).map fun j => w.getLsbD (15 - j)

/-- Clocking in the bits the register holds never feeds back: the register is shifted out. -/
theorem foldl_crcClock_own_bits (w : BitVec 16) {n : ℕ} (hn : n ≤ 16) :
    ((List.range n).map fun j => w.getLsbD (15 - j)).foldl crcClock w = w <<< n := by
  induction n with
  | zero => exact (BitVec.shiftLeft_zero w).symm
  | succ n ih =>
    have htop : (w <<< n).getLsbD 15 = w.getLsbD (15 - n) := by
      rw [BitVec.getLsbD_shiftLeft, decide_eq_false (by omega : ¬ 15 < n)]
      rfl
    rw [List.range_succ, List.map_append, List.foldl_append, ih (by omega), List.map_singleton,
      List.foldl_cons, List.foldl_nil, crcClock, htop, Bool.xor_self, if_neg Bool.false_ne_true,
      ← BitVec.shiftLeft_add]

theorem foldl_crcClock_wordBits_eq_zero_iff (r w : BitVec 16) :
    (wordBits w).foldl crcClock r = 0 ↔ r = w := by
  have hself : (wordBits w).foldl crcClock w = 0 :=
    (foldl_crcClock_own_bits w le_rfl).trans (BitVec.shiftLeft_eq_zero le_rfl)
  rw [← hself]
  exact (foldl_crcClock_injective (wordBits w)).eq_iff

theorem foldl_crcClock_wordBits_xor (r u w v : BitVec 16) :
    (wordBits (w ^^^ v)).foldl crcClock (r ^^^ u) =
      (wordBits w).foldl crcClock r ^^^ (wordBits v).foldl crcClock u := by
  simp only [wordBits, BitVec.getLsbD_xor, foldl_crcClock_xor]

/-- From one register content, different words lead to different register contents. -/
theorem foldl_crcClock_wordBits_injective (r : BitVec 16) :
    Function.Injective fun w => (wordBits w).foldl crcClock r := by
  intro w v (h : (wordBits w).foldl crcClock r = (wordBits v).foldl crcClock r)
  have hdiff : (wordBits (w ^^^ v)).foldl crcClock (r ^^^ r) = 0 := by
    rw [foldl_crcClock_wordBits_xor, h, BitVec.xor_self]
    rfl
  have hxor : r ^^^ r = w ^^^ v := (foldl_crcClock_wordBits_eq_zero_iff _ _).1 hdiff
  exact BitVec.xor_eq_zero_iff.1 (hxor.symm.trans BitVec.xor_self)

end Sys2Proof.Machine
end

section
/-! A byte sequence as the bits that are clocked into the CRC register, and its trailer (43_crc16.md R190,
30_encoding.md R108): the CRC of a sequence is 0 just when its last two bytes are the CRC of the others. -/

namespace Sys2Proof.Machine

/-! ### the bits of a byte sequence -/

/-- The `n` bits of `d` from bit `p` on, in order. -/
def bitRun (d : Bytes) (p n : ℕ) : List Bool := (List.range n).map fun j => bitAt d (p + j)

@[simp] theorem bitRun_length (d : Bytes) (p n : ℕ) : (bitRun d p n).length = n := by simp [bitRun]

theorem bitRun_add (d : Bytes) (p m n : ℕ) :
    bitRun d p (m + n) = bitRun d p m ++ bitRun d (p + m) n := by
  simp only [bitRun, List.range_add, List.map_append, List.map_map, Function.comp_def, Nat.add_assoc]

theorem bitRun_congr {d e : Bytes} {p n : ℕ} (h : ∀ j < n, bitAt d (p + j) = bitAt e (p + j)) :
    bitRun d p n = bitRun e p n :=
  List.map_congr_left fun j hj => h j (List.mem_range.1 hj)

theorem bitRun_byte (d : Bytes) (k : ℕ) : bitRun d (8 * k) 8 = msbFirst (d.getD k 0) := by
  refine List.map_congr_left fun j hj => ?_
  have hj : j < 8 := List.mem_range.1 hj
  rw [bitAt, show (8 * k + j) / 8 = k by omega, show (8 * k + j) % 8 = j by omega]

/-- The 16 bits of `d` from bit `p` on as a word. -/
def windowWord (d : Bytes) (p : ℕ) : BitVec 16 := BitVec.ofNat 16 (bitField d p 16)

theorem windowWord_toNat (d : Bytes) (p : ℕ) : (windowWord d p).toNat = bitField d p 16 := by
  rw [windowWord, BitVec.toNat_ofNat, Nat.mod_eq_of_lt (bitField_lt d p 16)]

theorem windowWord_getLsbD (d : Bytes) (p : ℕ) {k : ℕ} (hk : k < 16) :
    (windowWord d p).getLsbD k = bitAt d (p + 15 - k) := by
  rw [← BitVec.testBit_toNat, windowWord_toNat, testBit_bitField, decide_eq_true hk, Bool.true_and]
  congr 1

theorem bitRun_sixteen (d : Bytes) (p : ℕ) : bitRun d p 16 = wordBits (windowWord d p) := by
  refine List.map_congr_left fun j hj => ?_
  have hj : j < 16 := List.mem_range.1 hj
  rw [windowWord_getLsbD d p (by omega)]
  congr 1
  omega

/-! ### the CRC as a run of clocks -/

theorem crcByte_eq_foldl (r : BitVec 16) (c : Byte) : crcByte r c = (msbFirst c).foldl crcClock r :=
  rfl

theorem crc16_append_singleton (m : Bytes) (c : Byte) :
    crc16 (m ++ [c]) = (msbFirst c).foldl crcClock (crc16 m) := by
  rw [crc16, List.foldl_append, List.foldl_cons, List.foldl_nil, crcByte_eq_foldl, crc16]

theorem crc16_take (d : Bytes) {k : ℕ} (hk : k ≤ d.length) :
    crc16 (d.take k) = (bitRun d 0 (8 * k)).foldl crcClock 0xFFFF := by
  induction k with
  | zero => rfl
  | succ k ih =>
    have htake : d.take (k + 1) = d.take k ++ [d.getD k 0] := by
      rw [List.take_add_one, List.getD_eq_getElem?_getD, List.getElem?_eq_getElem hk]
      rfl
    rw [htake, crc16_append_singleton, ih (Nat.le_of_succ_le hk), Nat.mul_succ, bitRun_add,
      List.foldl_append, Nat.zero_add, bitRun_byte]

theorem crc16_eq_foldl (d : Bytes) :
    crc16 d = (bitRun d 0 (8 * d.length)).foldl crcClock 0xFFFF := by
  rw [← crc16_take d le_rfl, List.take_length]

/-! ### the trailer -/

theorem crcStored_eq {d : Bytes} (h : 2 ≤ d.length) :
    crcStored d = (d.getD (d.length - 2) 0).toNat * 256 + (d.getD (d.length - 1) 0).toNat := by
  obtain ⟨n, hn⟩ := Nat.exists_eq_add_of_le' h
  have hdrop : d.drop (d.length - 2) = [d.getD n 0, d.getD (n + 1) 0] := by
    rw [hn, Nat.add_sub_cancel, List.drop_eq_getElem_cons (by omega),
      List.drop_eq_getElem_cons (by omega), List.drop_eq_nil_of_le (by omega)]
    simp [List.getD_eq_getElem?_getD, hn]
  rw [crcStored, hdrop, be_pair, hn]
  rfl

/-- What `CRC.CHK` compares is what R108 says of the trailer. -/
theorem crcAgrees_iff {d : Bytes} (h : 2 ≤ d.length) :
    CrcAgrees d ↔ (crcOfBody d).toNat = crcStored d := by
  rw [crcStored_eq h, CrcAgrees, crcOfBody]

theorem windowWord_trailer {d : Bytes} (h : 2 ≤ d.length) :
    (windowWord d (8 * (d.length - 2))).toNat = crcStored d := by
  rw [windowWord_toNat, bitField_bytes (n := 2) (by omega), slice, List.take_of_length_le (by simp; omega),
    crcStored]

/-- Clocking in the trailer brings the register to 0 just when the trailer is the CRC
(`foldl_crcClock_wordBits_eq_zero_iff`). -/
theorem crcAgrees_iff_crc16_eq_zero {d : Bytes} (h : 2 ≤ d.length) : CrcAgrees d ↔ crc16 d = 0 := by
  have hsplit : 8 * d.length = 8 * (d.length - 2) + 16 := by omega
  rw [crc16_eq_foldl, hsplit, bitRun_add, List.foldl_append, ← crc16_take d (Nat.sub_le _ _),
    Nat.zero_add, bitRun_sixteen, foldl_crcClock_wordBits_eq_zero_iff, ← BitVec.toNat_inj,
    windowWord_trailer h, crcAgrees_iff h, crcOfBody]

/-- `m` followed by its CRC, big-endian. -/
def appendCrc (m : Bytes) : Bytes := m ++ toBe (crc16 m).toNat 2

theorem appendCrc_length (m : Bytes) : (appendCrc m).length = m.length + 2 := by simp [appendCrc]

theorem two_le_length_appendCrc (m : Bytes) : 2 ≤ (appendCrc m).length :=
  (Nat.le_add_left 2 _).trans_eq (appendCrc_length m).symm

theorem crcOfBody_appendCrc (m : Bytes) : crcOfBody (appendCrc m) = crc16 m := by
  rw [crcOfBody, appendCrc_length, Nat.add_sub_cancel, appendCrc, List.take_left]

theorem crcStored_appendCrc (m : Bytes) : crcStored (appendCrc m) = (crc16 m).toNat := by
  rw [crcStored, appendCrc_length, Nat.add_sub_cancel, appendCrc, List.drop_left, be_toBe]
  exact Nat.mod_eq_of_lt (crc16 m).isLt

theorem crcAgrees_appendCrc (m : Bytes) : CrcAgrees (appendCrc m) := by
  rw [crcAgrees_iff (two_le_length_appendCrc m), crcOfBody_appendCrc, crcStored_appendCrc]

theorem withCrc_eq_appendCrc {d : Bytes} (h : 2 ≤ d.length) :
    withCrc d = appendCrc (d.take (d.length - 2)) := by
  rw [withCrc, overwrite, toBe_length, Nat.sub_add_cancel h, List.drop_length, List.append_nil,
    appendCrc, crcOfBody]

end Sys2Proof.Machine
end

section
/-! The CRC family (43_crc16.md R191 to R194): `CRC.CALC` and `CRC.CHK` write `RES[0]` alone, `CRC.SET` the
trailer of its buffer too, and `CRC.CHK` accepts what `CRC.SET` leaves. -/

namespace Sys2Proof.Machine

variable {s : State} {b : BufIx}

/-! ### the commands past the index check -/

theorem exec_crcCalc (hb : b.toNat < s.cfg.nbuf) (x y : Scalar) :
    exec (.crcCalc b x y) s =
      complete s (memRead s b x.toNat y.toNat fun d => finish (s.setRes 0 ((crc16 d).setWidth 64))) :=
  exec_past_usesBuf rfl hb

theorem exec_crcSet_of_short (hb : b.toNat < s.cfg.nbuf) (hshort : (s.buf b).length < 2) :
    exec (.crcSet b) s = complete s (.raised .fieldOutOfRange 0) := by
  rw [exec_past_usesBuf rfl hb, decide_eq_false (Nat.not_le.2 hshort), require_false]

theorem exec_crcSet (hb : b.toNat < s.cfg.nbuf) (hlong : 2 ≤ (s.buf b).length) :
    exec (.crcSet b) s = complete s (finish
      ((s.setBuf b (withCrc (s.buf b))).setRes 0 ((crcOfBody (s.buf b)).setWidth 64))) := by
  rw [exec_past_usesBuf rfl hb, decide_eq_true hlong, require_true]

theorem exec_crcChk_of_short (hb : b.toNat < s.cfg.nbuf) (hshort : (s.buf b).length < 2) :
    exec (.crcChk b) s = complete s (.raised .fieldOutOfRange 0) := by
  rw [exec_past_usesBuf rfl hb, decide_eq_false (Nat.not_le.2 hshort), require_false]

theorem exec_crcChk_of_agrees (hb : b.toNat < s.cfg.nbuf) (hlong : 2 ≤ (s.buf b).length)
    (hagrees : CrcAgrees (s.buf b)) :
    exec (.crcChk b) s = complete s (finish (s.setRes 0 ((crcOfBody (s.buf b)).setWidth 64))) := by
  rw [exec_past_usesBuf rfl hb, decide_eq_true hlong, require_true,
    decide_eq_true ((crcAgrees_iff hlong).1 hagrees), require_true]

theorem exec_crcChk_of_not_agrees (hb : b.toNat < s.cfg.nbuf) (hlong : 2 ≤ (s.buf b).length)
    (hdiffers : ¬ CrcAgrees (s.buf b)) :
    exec (.crcChk b) s =
      complete s (.raised .crcMismatch ((crcOfBody (s.buf b)).setWidth 64)) := by
  rw [exec_past_usesBuf rfl hb, decide_eq_true hlong, require_true,
    decide_eq_false (mt (crcAgrees_iff hlong).2 hdiffers), require_false]

theorem crcValue_toNat (c : BitVec 16) : (c.setWidth 64 : Value).toNat = c.toNat :=
  BitVec.toNat_setWidth_of_le (by decide)

/-- Settles O42: the index check, then the range check of `MemRead`. -/
theorem crcCalcComputes : Obligations.CrcCalcComputes := by
  intro s b x y
  refine ⟨needsBuf_of_operand rfl, fun hb => ⟨fun hover => ?_, fun hfits => ?_⟩⟩
  · exact faults_of_raised_outOfRange (by rw [exec_crcCalc hb, memRead_of_lt hover])
  · obtain ⟨t, hexec, hres, hframe⟩ :=
      completes_setRes (by rw [exec_crcCalc hb x y, memRead_of_le hfits])
    exact ⟨t, hexec, by rw [hres, crcValue_toNat, slice], hframe⟩

theorem faults_crcChk_of_not_agrees (hb : b.toNat < s.cfg.nbuf) (hlong : 2 ≤ (s.buf b).length)
    (hdiffers : ¬ CrcAgrees (s.buf b)) :
    Faults (.crcChk b) s .integrityFailure .crcMismatch (crcOfBody (s.buf b)).toNat :=
  faults_of_raised rfl (by decide) <| by
    rw [exec_crcChk_of_not_agrees hb hlong hdiffers, val, BitVec.ofNat_toNat]

/-- Settles O43: each command by the check that decides it, the bytes `CRC.SET` leaves by the rules of
`overwrite`. -/
theorem crcSetAndChk : Obligations.CrcSetAndChk := by
  intro s b n c
  refine ⟨needsBuf_of_operand rfl, needsBuf_of_operand rfl, fun hb => ⟨fun hshort =>
    ⟨faults_of_raised_outOfRange (exec_crcSet_of_short hb hshort),
      faults_of_raised_outOfRange (exec_crcChk_of_short hb hshort)⟩, fun hlong => ⟨?_, ?_, ?_⟩⟩⟩
  · obtain ⟨t, hexec, hbuf, hres, hmem, hresfrom, hunits, hanswers⟩ :=
      completes_setBuf_setRes (exec_crcSet hb hlong)
    have hfits : n - 2 + 2 ≤ (s.buf b).length := (Nat.sub_add_cancel hlong).le
    have hhigh : c.toNat / 256 < 256 := Nat.div_lt_of_lt_mul c.isLt
    refine ⟨t, hexec, ?_, fun k hk => byteAt_eq_of_getElem?_eq hunits.cfg_eq ?_, ?_, ?_, ?_, hmem,
      hresfrom, hunits, hanswers⟩
    · rw [hbuf, withCrc_length _ hlong]
    · rw [hbuf]
      exact overwrite_getElem?_outside (by rwa [toBe_length]) (.inl hk)
    · rw [hbuf]
      exact (overwrite_toBe_getD (j := 0) c.toNat hfits (by decide)).trans (Nat.mod_eq_of_lt hhigh)
    · rw [hbuf, show n - 1 = n - 2 + 1 by omega]
      exact (overwrite_toBe_getD (j := 1) c.toNat hfits (by decide)).trans (by rw [pow_zero, Nat.div_one])
    · rw [hres, crcValue_toNat, crcOfBody]
  · intro hagrees
    obtain ⟨t, hexec, hres, hframe⟩ := completes_setRes (exec_crcChk_of_agrees hb hlong hagrees)
    exact ⟨t, hexec, by rw [hres, crcValue_toNat, crcOfBody], hframe⟩
  · exact faults_crcChk_of_not_agrees hb hlong

/-- Settles O44: `CRC.SET` leaves the body followed by its CRC (`withCrc_eq_appendCrc`), which agrees
(`crcAgrees_appendCrc`), and agreement is a CRC of 0 (`crcAgrees_iff_crc16_eq_zero`). -/
theorem crcRoundTrip : Obligations.CrcRoundTrip := by
  refine ⟨fun s b hb hlong => ?_, fun m => ?_⟩
  · obtain ⟨t, hset, hbuf, hrest, -, -, hunits, hanswerst⟩ :=
      completes_setBuf_setRes (exec_crcSet hb hlong)
    have hbuf : t.buf b = appendCrc ((s.buf b).take ((s.buf b).length - 2)) := by
      rw [hbuf, withCrc_eq_appendCrc hlong]
    have hbt : b.toNat < t.cfg.nbuf := by rwa [hunits.cfg_eq]
    have hlongt : 2 ≤ (t.buf b).length := by rw [hbuf]; exact two_le_length_appendCrc _
    have hagrees : CrcAgrees (t.buf b) := by rw [hbuf]; exact crcAgrees_appendCrc _
    obtain ⟨u, hchk, hresu, -, -, -, hanswersu⟩ :=
      completes_setRes (exec_crcChk_of_agrees hbt hlongt hagrees)
    refine ⟨t, u, runs_cons_of_answers hset hanswerst, runs_cons_of_answers hchk hanswersu, ?_⟩
    rw [hresu, hrest, hbuf, crcOfBody_appendCrc, crcOfBody]
  · exact (crcAgrees_iff_crc16_eq_zero (two_le_length_appendCrc m)).1 (crcAgrees_appendCrc m)

end Sys2Proof.Machine
end

section
/-! Burst errors (43_crc16.md R196): two contents that differ inside one window of 16 bits differ in one
word, between clocks that are the same for both; so their registers end up different. -/

namespace Sys2Proof.Machine

theorem bitAt_eq_of_bitValue_eq {d e : Bytes} {q : ℕ} (h : bitValue d q = bitValue e q) :
    bitAt d q = bitAt e q := by
  rw [bitValue_eq_toNat_bitAt, bitValue_eq_toNat_bitAt] at h
  exact Bool.eq_iff_iff.2 (by rw [← Bool.toNat_eq_one, h, Bool.toNat_eq_one])

theorem bitAt_of_length_le {d : Bytes} {q : ℕ} (h : 8 * d.length ≤ q) : bitAt d q = false := by
  rw [bitAt, List.getD_eq_default _ _ (by omega)]
  exact BitVec.getLsbD_zero

theorem eq_of_bitAt_eq {d e : Bytes} (hlength : d.length = e.length)
    (h : ∀ q, bitAt d q = bitAt e q) : d = e := by
  rw [← toBe_be d, ← toBe_be e, hlength]
  have hbe : ∀ a : Bytes, be a = bitField a 0 (8 * a.length) := fun a => by
    rw [← Nat.mul_zero 8, bitField_bytes (Nat.zero_add _).le, slice, List.drop_zero, List.take_length]
  rw [hbe d, hbe e, hlength, bitField_congr fun q _ _ => h q]

/-- Both contents agree outside the 16 bits from bit `p` on. -/
def SameOutsideWindow (p : ℕ) (d e : Bytes) : Prop := ∀ q, q < p ∨ p + 16 ≤ q → bitAt d q = bitAt e q

/-- A window that reaches past the end can be moved back inside: there are no bits to differ there. -/
theorem SameOutsideWindow.exists_inside {p : ℕ} {d e : Bytes} (h : SameOutsideWindow p d e)
    (hlength : d.length = e.length) (hlong : 2 ≤ e.length) :
    ∃ p', p' + 16 ≤ 8 * e.length ∧ SameOutsideWindow p' d e := by
  by_cases hin : p + 16 ≤ 8 * e.length
  · exact ⟨p, hin, h⟩
  · refine ⟨8 * e.length - 16, by omega, fun q hq => ?_⟩
    obtain hbefore | hafter := hq
    · exact h q (.inl (by omega))
    · rw [bitAt_of_length_le (by omega), bitAt_of_length_le (by omega)]

/-- Equal registers at the end were equal after the window, so the 16 bits were the same too. -/
theorem windowWord_eq_of_crc16_eq {p : ℕ} {d e : Bytes} (h : SameOutsideWindow p d e)
    (hlength : d.length = e.length) (hin : p + 16 ≤ 8 * e.length) (hcrc : crc16 d = crc16 e) :
    windowWord d p = windowWord e p := by
  obtain ⟨n, hn⟩ := Nat.exists_eq_add_of_le hin
  have hbefore : bitRun d 0 p = bitRun e 0 p := bitRun_congr fun j hj => h _ (.inl (by omega))
  have hafter : bitRun d (p + 16) n = bitRun e (p + 16) n :=
    bitRun_congr fun j _ => h _ (.inr (by omega))
  rw [crc16_eq_foldl, crc16_eq_foldl, hlength, hn] at hcrc
  simp only [bitRun_add, List.foldl_append, Nat.zero_add, hbefore, hafter, bitRun_sixteen] at hcrc
  exact foldl_crcClock_wordBits_injective _ (foldl_crcClock_injective _ hcrc)

theorem eq_of_crc16_eq {p : ℕ} {d e : Bytes} (h : SameOutsideWindow p d e)
    (hlength : d.length = e.length) (hlong : 2 ≤ e.length) (hcrc : crc16 d = crc16 e) : d = e := by
  obtain ⟨p', hin, hsame⟩ := h.exists_inside hlength hlong
  have hwindow := windowWord_eq_of_crc16_eq hsame hlength hin hcrc
  refine eq_of_bitAt_eq hlength fun q => ?_
  by_cases hq : q < p' ∨ p' + 16 ≤ q
  · exact hsame q hq
  · have hback : p' + 15 - (p' + 15 - q) = q := by omega
    rw [← hback, ← windowWord_getLsbD d p' (by omega), hwindow, windowWord_getLsbD e p' (by omega)]

/-- Settles O46: the passing content has CRC 0 (`crcAgrees_iff_crc16_eq_zero`), so a changed one cannot
(`eq_of_crc16_eq`). -/
theorem crcBurstFound : Obligations.CrcBurstFound := by
  intro s b f p hb hlong hagrees hlength hne hsame
  have hlongb : 2 ≤ (s.buf b).length := by rwa [hlength]
  have hdiffers : ¬ CrcAgrees (s.buf b) := fun hpass => by
    refine hne (eq_of_crc16_eq (fun q hq => bitAt_eq_of_bitValue_eq (hsame q hq)) hlength hlong ?_)
    rw [(crcAgrees_iff_crc16_eq_zero hlongb).1 hpass, (crcAgrees_iff_crc16_eq_zero hlong).1 hagrees]
  rw [← hlength]
  exact faults_crcChk_of_not_agrees hb hlongb hdiffers

end Sys2Proof.Machine
end

section
/-! The CRC register as a division circuit (43_crc16.md R190): the register as a polynomial over GF(2), one
clock as multiplication by `x` and reduction by the generator, and the preset as bits before the message. -/

namespace Sys2Proof.Machine

open Polynomial

/-! ### one clock as numbers -/

theorem crcMask_toNat (fb : Bool) : (crcMask fb).toNat = if fb = true then 0x1021 else 0 := by
  cases fb <;> rfl

theorem getLsbD_fifteen_eq_decide (r : BitVec 16) : r.getLsbD 15 = decide (32768 ≤ r.toNat) :=
  r.msb_eq_getLsbD_last.symm.trans r.msb_eq_decide

theorem crcClock_toNat (r : BitVec 16) (b : Bool) :
    (crcClock r b).toNat =
      (2 * r.toNat % 65536) ^^^ (if (b ^^ decide (32768 ≤ r.toNat)) = true then 0x1021 else 0) := by
  rw [crcClock_eq_shift_xor, BitVec.toNat_xor, crcMask_toNat, getLsbD_fifteen_eq_decide,
    BitVec.toNat_shiftLeft, Nat.shiftLeft_eq, Nat.mul_comm]

/-! ### the register as a polynomial -/

/-- A word as a polynomial, bit `k` the coefficient of `x^k`. -/
noncomputable def wordPoly (r : BitVec 16) : (ZMod 2)[X] :=
  ∑ k ∈ Finset.range 16, if r.getLsbD k = true then X ^ k else 0

theorem wordPoly_xor (r u : BitVec 16) : wordPoly (r ^^^ u) = wordPoly r + wordPoly u := by
  rw [wordPoly, wordPoly, wordPoly, ← Finset.sum_add_distrib]
  refine Finset.sum_congr rfl fun k _ => ?_
  rw [BitVec.getLsbD_xor]
  cases r.getLsbD k <;> cases u.getLsbD k <;> simp [CharTwo.add_self_eq_zero]

theorem wordPoly_allOnes : wordPoly 0xFFFF = ∑ k ∈ Finset.range 16, X ^ k := by
  have hones : ∀ k < 16, (0xFFFF : BitVec 16).getLsbD k = true := by decide
  exact Finset.sum_congr rfl fun k hk => if_pos (hones k (Finset.mem_range.1 hk))

theorem degree_wordPoly_lt (r : BitVec 16) : (wordPoly r).degree < 16 := by
  refine (degree_sum_le _ _).trans_lt ((Finset.sup_lt_iff (by decide)).2 fun k hk => ?_)
  split
  · rw [degree_X_pow]
    exact_mod_cast Finset.mem_range.1 hk
  · rw [degree_zero]
    decide

/-- Shifting multiplies by `x`, the bit shifted out added as `x^16` once more. -/
theorem wordPoly_shiftLeft (r : BitVec 16) :
    wordPoly (r <<< 1) = wordPoly r * X + bitPoly (r.getLsbD 15) * X ^ 16 := by
  have hlowest : (r <<< 1).getLsbD 0 = false := by simp
  have hkept : wordPoly (r <<< 1) =
      (∑ k ∈ Finset.range 15, if r.getLsbD k = true then X ^ k else 0) * X := by
    rw [wordPoly, Finset.sum_range_succ' _ 15, hlowest, if_neg Bool.false_ne_true, add_zero,
      Finset.sum_mul]
    exact Finset.sum_congr rfl fun k hk => by
      rw [shiftLeft_one_getLsbD_succ r (Finset.mem_range.1 hk), ite_mul, zero_mul, pow_succ]
  have htop : wordPoly r =
      (∑ k ∈ Finset.range 15, if r.getLsbD k = true then X ^ k else 0) +
        bitPoly (r.getLsbD 15) * X ^ 15 := by
    rw [wordPoly, Finset.sum_range_succ, bitPoly, ite_mul, one_mul, zero_mul]
  rw [hkept, htop]
  linear_combination -bitPoly (r.getLsbD 15) * X ^ 16 * (CharTwo.two_eq_zero (R := (ZMod 2)[X]))

/-! ### the generator -/

/-- `g(x) = x^16 + x^12 + x^5 + 1` (43_crc16.md R190). -/
noncomputable def crcGenerator : (ZMod 2)[X] := X ^ 16 + X ^ 12 + X ^ 5 + 1

theorem degree_crcGenerator : crcGenerator.degree = 16 := by
  unfold crcGenerator
  compute_degree!

theorem crcGenerator_monic : crcGenerator.Monic := by
  unfold crcGenerator
  monicity!

theorem wordPoly_crcMask (fb : Bool) :
    wordPoly (crcMask fb) = bitPoly fb * (X ^ 16 + crcGenerator) := by
  cases fb with
  | false => simp [wordPoly, crcMask, bitPoly]
  | true =>
    have htaps : wordPoly (crcMask true) = 1 + X ^ 5 + X ^ 12 := by
      simp [wordPoly, crcMask, Finset.sum_range_succ]
    rw [htaps, bitPoly, if_pos rfl, one_mul, crcGenerator]
    linear_combination -X ^ 16 * (CharTwo.two_eq_zero (R := (ZMod 2)[X]))

/-- One clock multiplies the register by `x`, adds the input bit at `x^16`, and reduces by the
generator. -/
theorem wordPoly_crcClock (r : BitVec 16) (b : Bool) :
    wordPoly (crcClock r b) =
      wordPoly r * X + bitPoly b * X ^ 16 + bitPoly (b ^^ r.getLsbD 15) * crcGenerator := by
  rw [crcClock_eq_shift_xor, wordPoly_xor, wordPoly_shiftLeft, wordPoly_crcMask, bitPoly_xor]
  linear_combination bitPoly (r.getLsbD 15) * X ^ 16 * (CharTwo.two_eq_zero (R := (ZMod 2)[X]))

/-- The bits clocked in, with the preset `r` as the bits before them. -/
noncomputable def presetMessagePoly (r : BitVec 16) (bits : List Bool) : (ZMod 2)[X] :=
  messagePoly bits * X ^ 16 + wordPoly r * X ^ bits.length

theorem presetMessagePoly_append_singleton (r : BitVec 16) (bits : List Bool) (b : Bool) :
    presetMessagePoly r (bits ++ [b]) = presetMessagePoly r bits * X + bitPoly b * X ^ 16 := by
  rw [presetMessagePoly, presetMessagePoly, messagePoly_append_singleton, List.length_append,
    List.length_singleton]
  ring

theorem crcGenerator_dvd_message_sub_register (r : BitVec 16) (bits : List Bool) :
    crcGenerator ∣ presetMessagePoly r bits - wordPoly (bits.foldl crcClock r) := by
  induction bits using List.reverseRecOn with
  | nil =>
    have hstart : presetMessagePoly r [] = wordPoly r := by
      rw [presetMessagePoly, messagePoly_nil, List.length_nil, pow_zero, zero_mul, zero_add, mul_one]
    rw [hstart, List.foldl_nil, sub_self]
    exact dvd_zero _
  | append_singleton bits b ih =>
    obtain ⟨q, hq⟩ := ih
    rw [List.foldl_append, List.foldl_cons, List.foldl_nil, presetMessagePoly_append_singleton,
      wordPoly_crcClock]
    generalize bits.foldl crcClock r = u at hq
    exact ⟨q * X - bitPoly (b ^^ u.getLsbD 15), by linear_combination X * hq⟩

/-- The register holds the remainder of the message behind its preset. -/
theorem presetMessagePoly_modByMonic_crcGenerator (r : BitVec 16) (bits : List Bool) :
    presetMessagePoly r bits %ₘ crcGenerator = wordPoly (bits.foldl crcClock r) := by
  rw [modByMonic_eq_of_dvd_sub crcGenerator_monic (crcGenerator_dvd_message_sub_register r bits)]
  exact (modByMonic_eq_self_iff crcGenerator_monic).2 ((degree_wordPoly_lt _).trans_eq degree_crcGenerator.symm)

theorem messagePoly_bitRun (d : Bytes) (n : ℕ) :
    messagePoly (bitRun d 0 n) =
      ∑ j ∈ Finset.range n, if bitValue d j = 1 then X ^ (n - 1 - j) else 0 := by
  rw [messagePoly, bitRun_length]
  refine Finset.sum_congr rfl fun j hj => ?_
  have hbit : (bitRun d 0 n).getD j false = bitAt d j := by
    simp [bitRun, List.getD_eq_getElem?_getD, Finset.mem_range.1 hj]
  rw [hbit, bitValue_eq_toNat_bitAt]
  exact if_congr Bool.toNat_eq_one.symm rfl rfl

/-- Settles O45: the clock as numbers (`crcClock_toNat`), a byte as eight clocks
(`crc16_append_singleton`), and the remainder by induction on the bits clocked in
(`presetMessagePoly_modByMonic_crcGenerator`). -/
theorem crcRemainder : Obligations.CrcRemainder := by
  refine ⟨crcClock_toNat, rfl, crc16_append_singleton, fun m => ?_⟩
  have hremainder := presetMessagePoly_modByMonic_crcGenerator 0xFFFF (bitRun m 0 (8 * m.length))
  rwa [← crc16_eq_foldl, presetMessagePoly, messagePoly_bitRun, bitRun_length, wordPoly_allOnes]
    at hremainder

end Sys2Proof.Machine
end

section
/-! Header fields (44_frame_packet.md R200 to R205): each field of a header as a formula over its bytes
(30_encoding.md R111), and where it lies in the buffer that the header is read from. -/

namespace Sys2Proof.Machine

/-! ### bit fields of one and of two bytes -/

theorem bitField_within_byte (d : Bytes) {p w : ℕ} (h : p % 8 + w ≤ 8) :
    bitField d p w = (d.getD (p / 8) 0).toNat / 2 ^ (8 - p % 8 - w) % 2 ^ w := by
  obtain ⟨r, hr⟩ := Nat.exists_eq_add_of_le h
  have hbyte : (d.getD (p / 8) 0).toNat =
      (bitField d (8 * (p / 8)) (p % 8) * 2 ^ w + bitField d p w) * 2 ^ r +
        bitField d (8 * (p / 8) + (p % 8 + w)) r :=
    calc (d.getD (p / 8) 0).toNat = bitField d (8 * (p / 8)) 8 := (bitField_byte d _).symm
      _ = bitField d (8 * (p / 8)) (p % 8 + w + r) := congrArg _ hr
      _ = _ := by rw [bitField_add, bitField_add, Nat.div_add_mod]
  have hrest : 8 - p % 8 - w = r := by omega
  rw [hrest, hbyte, Nat.add_comm, Nat.add_mul_div_right _ _ (by positivity),
    Nat.div_eq_of_lt (bitField_lt d _ _), Nat.zero_add, Nat.add_comm, Nat.add_mul_mod_self_right,
    Nat.mod_eq_of_lt (bitField_lt d p w)]

/-- A field that runs from one byte into the next. -/
theorem bitField_two_bytes (d : Bytes) {p w : ℕ} (hlow : 8 < p % 8 + w) (hhigh : p % 8 + w ≤ 16) :
    bitField d p w = (d.getD (p / 8) 0).toNat % 2 ^ (8 - p % 8) * 2 ^ (p % 8 + w - 8) +
      (d.getD (p / 8 + 1) 0).toNat / 2 ^ (16 - p % 8 - w) := by
  have hfirst : bitField d p (8 - p % 8) = (d.getD (p / 8) 0).toNat % 2 ^ (8 - p % 8) := by
    rw [bitField_within_byte d (by omega), Nat.sub_self, pow_zero, Nat.div_one]
  have hsecond : bitField d (8 * (p / 8 + 1)) (p % 8 + w - 8) =
      (d.getD (p / 8 + 1) 0).toNat / 2 ^ (16 - p % 8 - w) := by
    have hrest : 8 - 0 - (p % 8 + w - 8) = 16 - p % 8 - w := by omega
    have hlt : (d.getD (p / 8 + 1) 0).toNat / 2 ^ (16 - p % 8 - w) < 2 ^ (p % 8 + w - 8) := by
      rw [Nat.div_lt_iff_lt_mul (by positivity), ← pow_add]
      exact (BitVec.isLt _).trans_eq (congrArg _ (by omega))
    rw [bitField_within_byte d (by omega), Nat.mul_mod_right, Nat.mul_div_cancel_left _ (by decide),
      hrest, Nat.mod_eq_of_lt hlt]
  have hwidth : w = 8 - p % 8 + (p % 8 + w - 8) := by omega
  have hnext : p + (8 - p % 8) = 8 * (p / 8 + 1) := by omega
  calc bitField d p w = bitField d p (8 - p % 8 + (p % 8 + w - 8)) := congrArg _ hwidth
    _ = _ := by rw [bitField_add, hnext, hfirst, hsecond]

theorem bitField_slice (d : Bytes) {off n p w : ℕ} (h : p + w ≤ 8 * n) :
    bitField (slice d off n) p w = bitField d (8 * off + p) w := by
  refine Nat.eq_of_testBit_eq fun k => ?_
  rw [testBit_bitField, testBit_bitField]
  by_cases hk : k < w
  · have hbyte : off + (p + w - 1 - k) / 8 = (8 * off + p + w - 1 - k) / 8 := by omega
    have hbit : (p + w - 1 - k) % 8 = (8 * off + p + w - 1 - k) % 8 := by omega
    rw [bitAt, bitAt, slice_getD _ _ _ _ (by omega), hbyte, hbit]
  · simp [hk]

/-! ### the fields of a table -/

/-- The field at bit `f.1` with width `f.2`, in one byte or in two, of a header whose bytes are `b 0`,
`b 1`, … (30_encoding.md R111). -/
def fieldFormula (b : ℕ → ℕ) (f : ℕ × ℕ) : ℕ :=
  if f.1 % 8 + f.2 ≤ 8 then b (f.1 / 8) / 2 ^ (8 - f.1 % 8 - f.2) % 2 ^ f.2
  else b (f.1 / 8) % 2 ^ (8 - f.1 % 8) * 2 ^ (f.1 % 8 + f.2 - 8) +
    b (f.1 / 8 + 1) / 2 ^ (16 - f.1 % 8 - f.2)

/-- The field is not empty, lies in one byte or in two, and ends within `n` bytes. -/
abbrev FieldWithin (n : ℕ) (f : ℕ × ℕ) : Prop :=
  0 < f.2 ∧ f.1 % 8 + f.2 ≤ 16 ∧ f.1 + f.2 ≤ 8 * n

theorem bitField_eq_fieldFormula {h : Bytes} {b : ℕ → ℕ} {n : ℕ} {f : ℕ × ℕ} (hf : FieldWithin n f)
    (hb : ∀ j < n, (h.getD j 0).toNat = b j) : bitField h f.1 f.2 = fieldFormula b f := by
  obtain ⟨hwidth, htwo, hend⟩ := hf
  rw [fieldFormula]
  split_ifs with hone
  · rw [bitField_within_byte h hone, hb _ (by omega)]
  · rw [bitField_two_bytes h (by omega) htwo, hb _ (by omega), hb _ (by omega)]

theorem fieldValues_eq_map_fieldFormula {h : Bytes} {b : ℕ → ℕ} {n : ℕ} {table : List (ℕ × ℕ)}
    (htable : ∀ f ∈ table, FieldWithin n f) (hb : ∀ j < n, (h.getD j 0).toNat = b j) :
    fieldValues h table = table.map (fieldFormula b) :=
  List.map_congr_left fun f hf => bitField_eq_fieldFormula (htable f hf) hb

section
variable {b : ℕ → ℕ} (hb : ∀ j, b j < 256)
include hb

theorem tmfFields_map_fieldFormula :
    tmfFields.map (fieldFormula b) =
      [b 0 / 64, b 0 % 64 * 16 + b 1 / 16, b 1 / 2 % 8, b 1 % 2, b 2, b 3, b 4 / 128, b 4 / 64 % 2,
        b 4 / 32 % 2, b 4 / 8 % 4, b 4 % 8 * 256 + b 5] := by
  have h0 := hb 0
  have h4 := hb 4
  simp [tmfFields, fieldFormula, Nat.mod_eq_of_lt (hb _)]
  omega

theorem tcfFields_map_fieldFormula :
    tcfFields.map (fieldFormula b) =
      [b 0 / 64, b 0 / 32 % 2, b 0 / 16 % 2, b 0 / 4 % 4, b 0 % 4 * 256 + b 1, b 2 / 4,
        b 2 % 4 * 256 + b 3, b 4] := by
  have h0 := hb 0
  have h2 := hb 2
  simp [tcfFields, fieldFormula, Nat.mod_eq_of_lt (hb _)]
  omega

theorem pktFields_map_fieldFormula :
    pktFields.map (fieldFormula b) =
      [b 0 / 32, b 0 / 16 % 2, b 0 / 8 % 2, b 0 % 8 * 256 + b 1, b 2 / 64, b 2 % 64 * 256 + b 3,
        b 4 * 256 + b 5] := by
  have h0 := hb 0
  have h2 := hb 2
  simp [pktFields, fieldFormula, Nat.mod_eq_of_lt (hb _)]
  omega

theorem segFields_map_fieldFormula : segFields.map (fieldFormula b) = [b 0 / 64, b 0 % 64] := by
  have h0 := hb 0
  simp [segFields, fieldFormula]
  omega
end

end Sys2Proof.Machine
end

section
/-! The header extractors `HDR.TMF`, `HDR.TCF`, `HDR.PKT` and `HDR.SEG` (44_frame_packet.md R200 to R205):
one argument for all four, over the table of the fields and the results that follow them. -/

namespace Sys2Proof.Machine

variable {i : Instr} {s t : State} {b : BufIx} {x : Scalar}

/-! ### several results -/

theorem val_map_toNat {ns : List ℕ} (hns : ∀ n ∈ ns, n < 2 ^ 64) :
    (ns.map val).map BitVec.toNat = ns :=
  List.map_map.trans <| (List.map_congr_left fun n hn => val_toNat (hns n hn)).trans ns.map_id

theorem setResFrom_res_take (s : State) {vs : List Value} (hcount : vs.length ≤ 16) :
    (s.setResFrom 0 vs).res.toList.take vs.length = vs := by
  refine List.ext_getElem (by simpa using hcount) fun j hj hjv => ?_
  have hres := setResFrom_res_of_lt s vs ⟨j, hjv.trans_le hcount⟩ hjv
  rw [List.getElem_take, Vector.getElem_toList]
  exact hres.trans (by simp [List.getD_eq_getElem?_getD, hjv])

/-- A command that writes its first results and emits events: every buffer and every unit as before. -/
theorem completes_setResFrom {ns : List ℕ} {count : ℕ} {e : List Event}
    (hexec : exec i s = complete s (finishEvents (s.setResFrom 0 (ns.map val)) e))
    (hlength : ns.length = count) (hcount : count ≤ 16) (hns : ∀ n ∈ ns, n < 2 ^ 64) :
    ∃ t, exec i s = .next t ∧ (t.res.toList.take count).map BitVec.toNat = ns ∧
      SameMem s t ∧ SameResFrom count s t ∧ SameUnits s t ∧ Answers t [] e := by
  have hframe := setResFrom_frame s 0 (ns.map val)
  have hlength : (ns.map val).length = count := (List.length_map _).trans hlength
  refine ⟨_, hexec, ?_, ?_, fun j hj => ?_, ?_, rfl⟩
  · rw [answerOk_res, ← hlength, setResFrom_res_take s (hlength.trans_le hcount), val_map_toNat hns]
  · rw [hframe]
    exact fun _ _ => rfl
  · exact setResFrom_res_of_le s _ j (hlength.trans_le hj)
  · rw [hframe]
    exact sameUnits_refl s

/-! ### what the four commands do -/

/-- `i` needs `need` bytes from byte `x` of `B[b]` on, and answers the fields of `table` followed by
`extra`, both read from these bytes. -/
def ReadsHeader (i : Instr) (s : State) (b : BufIx) (x : Scalar) (need : ℕ) (table : List (ℕ × ℕ))
    (extra : Bytes → List ℕ) : Prop :=
  exec i s = complete s (usesBuf s b (headerAt s b x need fun h =>
    finish (s.setResFrom 0 ((fieldValues h table ++ extra h).map val))))

theorem readsHeader_hdrTmf (s : State) (b : BufIx) (x : Scalar) :
    ReadsHeader (.hdrTmf b x) s b x 6 tmfFields fun h => [fhpClass (fhpOf h)] := rfl

theorem readsHeader_hdrTcf (s : State) (b : BufIx) (x : Scalar) :
    ReadsHeader (.hdrTcf b x) s b x 5 tcfFields fun h => [bitField h 22 10 + 1] := rfl

theorem readsHeader_hdrPkt (s : State) (b : BufIx) (x : Scalar) :
    ReadsHeader (.hdrPkt b x) s b x 7 pktFields
      fun h => [bitField h 32 16 + 7, if isIdle h then 1 else 0] := rfl

theorem readsHeader_hdrSeg (s : State) (b : BufIx) (x : Scalar) :
    ReadsHeader (.hdrSeg b x) s b x 1 segFields fun _ => [] := by
  simp only [ReadsHeader, List.append_nil]
  rfl

section
variable {need : ℕ} {table : List (ℕ × ℕ)} {extra : Bytes → List ℕ}

theorem ReadsHeader.shortHeader (h : ReadsHeader i s b x need table extra)
    (hb : b.toNat < s.cfg.nbuf) (hshort : (s.buf b).length - x.toNat < need) :
    Faults i s .malformedInput .shortHeader ((s.buf b).length - x.toNat) :=
  faults_of_raised rfl (by decide) <| by
    rw [exec_past_usesBuf h hb, headerAt_eq, if_neg (Nat.not_le.2 hshort)]

/-- Byte `j` of `B[b]` counted from `x` on, as a number. -/
def headerByte (s : State) (b : BufIx) (x : Scalar) (j : ℕ) : ℕ :=
  ((s.buf b).getD (x.toNat + j) 0).toNat

theorem headerByte_lt (s : State) (b : BufIx) (x : Scalar) (j : ℕ) : headerByte s b x j < 256 :=
  BitVec.isLt _

theorem slice_getD_eq_headerByte {n j : ℕ} (hj : j < n) :
    ((slice (s.buf b) x.toNat n).getD j 0).toNat = headerByte s b x j := by
  rw [slice_getD _ _ _ _ hj, headerByte]

theorem fieldValues_lt (h : Bytes) (htable : ∀ f ∈ table, FieldWithin need f) :
    ∀ n ∈ fieldValues h table, n < 2 ^ 64 := by
  refine List.forall_mem_map.2 fun f hf => bitField_lt_word ?_
  obtain ⟨-, htwo, -⟩ := htable f hf
  omega

theorem ReadsHeader.completes (h : ReadsHeader i s b x need table extra)
    (hb : b.toNat < s.cfg.nbuf) (hneed : need ≤ (s.buf b).length - x.toNat)
    (htable : ∀ f ∈ table, FieldWithin need f)
    (hextra : ∀ n ∈ extra (slice (s.buf b) x.toNat need), n < 2 ^ 64) {ns : List ℕ} {count : ℕ}
    (hns : table.map (fieldFormula (headerByte s b x)) ++ extra (slice (s.buf b) x.toNat need) = ns)
    (hlength : ns.length = count) (hcount : count ≤ 16) :
    ∃ t, exec i s = .next t ∧ (t.res.toList.take count).map BitVec.toNat = ns ∧
      SameMem s t ∧ SameResFrom count s t ∧ SameUnits s t ∧ Answers t [] [] := by
  rw [← fieldValues_eq_map_fieldFormula htable fun j => slice_getD_eq_headerByte] at hns
  refine completes_setResFrom ?_ hlength hcount ?_
  · rw [exec_past_usesBuf h hb, headerAt_eq, if_pos hneed, hns, finish]
  · rw [← hns]
    exact List.forall_mem_append.2 ⟨fieldValues_lt _ htable, hextra⟩

end

/-! ### the results after the fields -/

theorem fhpClass_lt (p : ℕ) : fhpClass p < 2 ^ 64 := by
  unfold fhpClass
  split_ifs <;> decide

/-- A field of the header that begins at `x`. -/
theorem bitField_header (s : State) (b : BufIx) (x : Scalar) {n : ℕ} (f : ℕ × ℕ)
    (hf : FieldWithin n f) :
    bitField (slice (s.buf b) x.toNat n) f.1 f.2 = fieldFormula (headerByte s b x) f :=
  bitField_eq_fieldFormula hf fun _ => slice_getD_eq_headerByte

/-- Settles O47: the fields by their formulas (`tmfFields_map_fieldFormula`), and the class of the
pointer. -/
theorem hdrTmfReads : Obligations.HdrTmfReads := by
  intro s bs x avail b fhp
  have hreads := readsHeader_hdrTmf s bs x
  have hb : ∀ j, headerByte s bs x j < 256 := headerByte_lt s bs x
  refine ⟨needsBuf_of_operand rfl, fun hbs => ⟨hreads.shortHeader hbs, fun hneed => ?_⟩⟩
  have hpointer : fhpOf (slice (s.buf bs) x.toNat 6) = fhp :=
    (bitField_header s bs x (37, 11) (by decide)).trans (by simp [fieldFormula, fhp, b, headerByte])
  refine hreads.completes hbs hneed (by decide) ?_ ?_ rfl (by decide)
  · exact List.forall_mem_singleton.2 (fhpClass_lt _)
  · rw [tmfFields_map_fieldFormula hb, hpointer]
    rfl

/-- Settles O48: the fields of both tables by their formulas, and the frame size from the field
`frameLength`. -/
theorem hdrTcfAndSegRead : Obligations.HdrTcfAndSegRead := by
  intro s bs x avail b
  have htcf := readsHeader_hdrTcf s bs x
  have hseg := readsHeader_hdrSeg s bs x
  have hb : ∀ j, headerByte s bs x j < 256 := headerByte_lt s bs x
  refine ⟨needsBuf_of_operand rfl, needsBuf_of_operand rfl, fun hbs =>
    ⟨htcf.shortHeader hbs, fun hneed => ?_, hseg.shortHeader hbs, fun hneed => ?_⟩⟩
  · have hsize : bitField (slice (s.buf bs) x.toNat 5) 22 10 = b 2 % 4 * 256 + b 3 :=
      (bitField_header s bs x (22, 10) (by decide)).trans
        (by simp [fieldFormula, b, headerByte])
    refine htcf.completes hbs hneed (by decide) ?_ ?_ rfl (by decide)
    · have hlt := bitField_lt (slice (s.buf bs) x.toNat 5) 22 10
      exact List.forall_mem_singleton.2 (by omega)
    · rw [tcfFields_map_fieldFormula hb, hsize]
      rfl
  · refine hseg.completes hbs hneed (by decide) (by simp) ?_ rfl (by decide)
    rw [segFields_map_fieldFormula hb]
    rfl

/-- Settles O49: the fields by their formulas (`pktFields_map_fieldFormula`), the size from the field
`packetLength`, and the idle mark from `applicationProcessId`. -/
theorem hdrPktReads : Obligations.HdrPktReads := by
  intro s bs x avail b
  have hreads := readsHeader_hdrPkt s bs x
  have hb : ∀ j, headerByte s bs x j < 256 := headerByte_lt s bs x
  refine ⟨needsBuf_of_operand rfl, fun hbs => ⟨hreads.shortHeader hbs, fun hneed => ?_⟩⟩
  have hsize : bitField (slice (s.buf bs) x.toNat 7) 32 16 = b 4 * 256 + b 5 :=
    (bitField_header s bs x (32, 16) (by decide)).trans
      (by simp [fieldFormula, Nat.mod_eq_of_lt (hb _)]; rfl)
  have hapid : apidOf (slice (s.buf bs) x.toNat 7) = b 0 % 8 * 256 + b 1 :=
    (bitField_header s bs x (5, 11) (by decide)).trans (by simp [fieldFormula, b, headerByte])
  refine hreads.completes hbs hneed (by decide) ?_ ?_ rfl (by decide)
  · have hlt := bitField_lt (slice (s.buf bs) x.toNat 7) 32 16
    refine List.forall_mem_cons.2 ⟨by omega, List.forall_mem_singleton.2 ?_⟩
    split_ifs <;> decide
  · rw [pktFields_map_fieldFormula hb, hsize, isIdle, hapid]
    simp only [decide_eq_true_iff]
    rfl

end Sys2Proof.Machine
end

section
/-! The header extractors and `BU.GETBITS` (44_frame_packet.md R200, 40_binaryunit.md R148): a field of a
header is a bit field of the buffer. -/

namespace Sys2Proof.Machine

variable {i : Instr} {s t : State} {b : BufIx} {x : Scalar}
variable {need : ℕ} {table : List (ℕ × ℕ)} {extra : Bytes → List ℕ}

/-- A header extractor that completes with `OK` has its buffer and its bytes, and answers each field of
its table in its place. -/
theorem ReadsHeader.of_okNext (h : ReadsHeader i s b x need table extra)
    (hok : okNext (exec i s) = some t) :
    b.toNat < s.cfg.nbuf ∧ need ≤ (s.buf b).length - x.toNat ∧
      ∀ (j : Fin 16) (f : ℕ × ℕ), table[j.val]? = some f →
        t.res[j] = val (bitField (slice (s.buf b) x.toNat need) f.1 f.2) := by
  rw [h, usesBuf, okNext_complete_require (by decide), headerAt, okNext_complete_require (by decide),
    okNext_complete_finish, Option.some_inj, decide_eq_true_iff, decide_eq_true_iff] at hok
  obtain ⟨hindex, hneed, rfl⟩ := hok
  refine ⟨hindex, hneed, fun j f hf => ?_⟩
  have hj : j.val < table.length := (List.getElem?_eq_some_iff.1 hf).1
  rw [answerOk_res, setResFrom_res_of_lt _ _ _ (by simp [fieldValues]; omega),
    List.getD_eq_getElem?_getD, List.getElem?_map, List.getElem?_append_left (by simpa [fieldValues]),
    fieldValues, List.getElem?_map, hf]
  rfl

theorem bitsSupported_of_mem {c : Config} (hc : configValid c = true) {f : ℕ × ℕ}
    (hf : f ∈ tmfFields ++ tcfFields ++ pktFields ++ segFields) :
    bitsSupported c (f.1 % 8) f.2 = true := by
  rw [configValid, Bool.and_eq_true] at hc
  exact List.all_eq_true.1 hc.2 f hf

/-- What `BU.GETBITS` answers for a field within the `need` bytes from `x` on. -/
theorem buGetbits_header (hb : b.toNat < s.cfg.nbuf) {f : ℕ × ℕ} (hf : FieldWithin need f)
    (hneed : need ≤ (s.buf b).length - x.toNat) (hoffset : 8 * x.toNat + f.1 < 2 ^ 32)
    (hsupported : bitsSupported s.cfg (f.1 % 8) f.2 = true) :
    ∃ u, okNext (exec (.buGetbits b (BitVec.ofNat 32 (8 * x.toNat + f.1)) (BitVec.ofNat 32 f.2)) s) =
        some u ∧ u.res[0] = val (bitField (slice (s.buf b) x.toNat need) f.1 f.2) := by
  obtain ⟨hpos, htwo, hend⟩ := hf
  have hp : (BitVec.ofNat 32 (8 * x.toNat + f.1)).toNat = 8 * x.toNat + f.1 :=
    (BitVec.toNat_ofNat ..).trans (Nat.mod_eq_of_lt (by omega))
  have hw : (BitVec.ofNat 32 f.2).toNat = f.2 :=
    (BitVec.toNat_ofNat ..).trans (Nat.mod_eq_of_lt (by omega))
  refine ⟨_, okNext_buGetbits.2 ⟨⟨hb, ?_, ?_, ?_⟩, rfl⟩, ?_⟩
  · rw [hw, maxBits]
    omega
  · rwa [hp, hw, Nat.mul_add_mod]
  · rw [hp, hw]
    omega
  · rw [answerOk_res, setRes_zero_res_zero, hp, hw, bitField_slice _ hend]

/-- Each table's fields lie in the bytes its command needs and, whatever these are, begin in the first
six. -/
theorem exists_readsHeader {fields : List (ℕ × ℕ)}
    (hi : (i, fields) ∈ [(Instr.hdrTmf b x, tmfFields), (Instr.hdrTcf b x, tcfFields),
      (Instr.hdrPkt b x, pktFields), (Instr.hdrSeg b x, segFields)]) :
    ∃ need extra, ReadsHeader i s b x need fields extra ∧
      ∀ f ∈ fields, FieldWithin need f ∧ f.1 < 48 ∧
        f ∈ tmfFields ++ tcfFields ++ pktFields ++ segFields := by
  simp only [List.mem_cons, List.not_mem_nil, or_false, Prod.mk.injEq] at hi
  obtain ⟨rfl, rfl⟩ | ⟨rfl, rfl⟩ | ⟨rfl, rfl⟩ | ⟨rfl, rfl⟩ := hi
  · exact ⟨_, _, readsHeader_hdrTmf s b x, by decide⟩
  · exact ⟨_, _, readsHeader_hdrTcf s b x, by decide⟩
  · exact ⟨_, _, readsHeader_hdrPkt s b x, by decide⟩
  · exact ⟨_, _, readsHeader_hdrSeg s b x, by decide⟩

/-- Settles O50: what the extractor answers (`ReadsHeader.of_okNext`) is what `BU.GETBITS` answers
(`buGetbits_header`), field by field. -/
theorem hdrEqualsGetbits : Obligations.HdrEqualsGetbits := by
  intro s t b x i fields hvalid hoffset hi hok j f hf
  obtain ⟨need, extra, hreads, hfields⟩ := exists_readsHeader (s := s) hi
  obtain ⟨hindex, hneed, hres⟩ := hreads.of_okNext hok
  obtain ⟨hwithin, hstart, hmem⟩ := hfields f (List.mem_of_getElem? hf)
  obtain ⟨u, hget, hvalue⟩ := buGetbits_header hindex hwithin hneed (by omega)
    (bitsSupported_of_mem hvalid hmem)
  exact ⟨u, hget, (hres j f hf).trans hvalue.symm⟩

end Sys2Proof.Machine
end

section
/-! `frame_check` (44_frame_packet.md R206): one lemma per check that fails, and that it accepts exactly the
frames that `FrameGood` describes; then `TMF.SPLIT` and `PKT.PUSH`, which both check the frame first. -/

namespace Sys2Proof.Machine

variable {c : Config} {f : Bytes}

/-! ### the pointer -/

theorem fhpOf_eq_pointerOf (f : Bytes) : fhpOf f = pointerOf f := by
  have h5 := (f.getD 5 0).isLt
  rw [fhpOf, bitField_two_bytes f (by decide) (by decide), pointerOf]
  norm_num
  omega

theorem fhpClass_eq_zero_iff (p : ℕ) : fhpClass p = 0 ↔ p ≠ 0x7FF ∧ p ≠ 0x7FE := by
  unfold fhpClass fhpNoFirst fhpIdle
  split_ifs with hfirst hidle
  · simp [hfirst]
  · simp [hidle]
  · simp [hfirst, hidle]

/-! ### the checks, in their order -/

theorem frameCheck_of_badSize (hsize : f.length ≠ c.tmFrameSize) :
    frameCheck c f = .error (.badFrameSize, f.length) :=
  if_pos hsize

theorem frameCheck_of_badCrc (hlong : 2 ≤ f.length) (hsize : f.length = c.tmFrameSize)
    (hcrc : c.tmHasCrc = true ∧ ¬ CrcAgrees f) :
    frameCheck c f = .error (.crcMismatch, (crcOfBody f).toNat) :=
  (if_neg (not_not.2 hsize)).trans <| if_pos ⟨hcrc.1, mt (crcAgrees_iff hlong).2 hcrc.2⟩

theorem frameCheck_of_badPointer (hlong : 2 ≤ f.length) (hsize : f.length = c.tmFrameSize)
    (hcrc : c.tmHasCrc = true → CrcAgrees f)
    (hpointer : pointerOf f ≠ 0x7FF ∧ pointerOf f ≠ 0x7FE ∧ dfLen c ≤ pointerOf f) :
    frameCheck c f = .error (.badFhp, pointerOf f) := by
  obtain ⟨hfirst, hidle, hover⟩ := hpointer
  rw [frameCheck, if_neg (not_not.2 hsize), if_neg, fhpOf_eq_pointerOf,
    if_pos ⟨(fhpClass_eq_zero_iff _).2 ⟨hfirst, hidle⟩, hover⟩]
  exact fun ⟨hhas, hdiffers⟩ => hdiffers ((crcAgrees_iff hlong).1 (hcrc hhas))

/-- A frame that fails no check: its pointer. -/
theorem FrameGood.frameCheck_eq (hlong : 2 ≤ f.length) (h : FrameGood c f) :
    frameCheck c f = .ok (pointerOf f) := by
  obtain ⟨hsize, hcrc, hpointer⟩ := h
  rw [frameCheck, if_neg (not_not.2 hsize), if_neg, fhpOf_eq_pointerOf, if_neg]
  · rw [fhpClass_eq_zero_iff]
    omega
  · exact fun ⟨hhas, hdiffers⟩ => hdiffers ((crcAgrees_iff hlong).1 (hcrc hhas))

/-! ### all that the check can answer -/

/-- A reason that the frame check gives (44_frame_packet.md R206). -/
def FrameReason (r : Reason) : Prop := r = .badFrameSize ∨ r = .crcMismatch ∨ r = .badFhp

theorem FrameReason.statusOf_ne_ok {r : Reason} (h : FrameReason r) : statusOf r ≠ .ok := by
  obtain rfl | rfl | rfl := h <;> decide

theorem two_le_frame_length (hc : configValid c = true) (hsize : f.length = c.tmFrameSize) :
    2 ≤ f.length := by
  have hfits := dfStart_add_dfLen_le hc
  have hmin := (dfLen_bounds hc).1
  omega

/-- The frame passes, or the check gives one of the three reasons. -/
theorem frameGood_or_frameCheck_error (hc : configValid c = true) (f : Bytes) :
    FrameGood c f ∨ ∃ r a, FrameReason r ∧ frameCheck c f = .error (r, a) := by
  by_cases hsize : f.length ≠ c.tmFrameSize
  · exact .inr ⟨_, _, .inl rfl, frameCheck_of_badSize hsize⟩
  rw [not_not] at hsize
  have hlong := two_le_frame_length hc hsize
  by_cases hcrc : c.tmHasCrc = true ∧ ¬ CrcAgrees f
  · exact .inr ⟨_, _, .inr (.inl rfl), frameCheck_of_badCrc hlong hsize hcrc⟩
  rw [not_and_not_right] at hcrc
  by_cases hpointer : pointerOf f ≠ 0x7FF ∧ pointerOf f ≠ 0x7FE ∧ dfLen c ≤ pointerOf f
  · exact .inr ⟨_, _, .inr (.inr rfl), frameCheck_of_badPointer hlong hsize hcrc hpointer⟩
  · exact .inl ⟨hsize, hcrc, by omega⟩

/-! ### the two commands -/

variable {s : State} {bs : BufIx}

/-- Both commands raise what the check answers. -/
theorem faults_of_frameCheck_error {i : Instr} {st : Status} {r : Reason} {a : ℕ}
    (hi : i ∈ [Instr.tmfSplit bs, Instr.pktPush bs]) (hbs : bs.toNat < s.cfg.nbuf)
    (hcheck : frameCheck s.cfg (s.buf bs) = .error (r, a)) (hstatus : statusOf r = st)
    (hfault : st ≠ .ok) : Faults i s st r a := by
  refine faults_of_raised hstatus hfault ?_
  obtain rfl | rfl : i = .tmfSplit bs ∨ i = .pktPush bs := by simpa using hi
  · rw [exec_past_usesBuf rfl hbs, hcheck]
  · rw [exec_past_usesBuf rfl hbs, hcheck]

theorem exec_tmfSplit_of_ok {p : ℕ} (hbs : bs.toNat < s.cfg.nbuf)
    (hcheck : frameCheck s.cfg (s.buf bs) = .ok p) :
    exec (.tmfSplit bs) s = complete s (finishEvents
      (s.setResFrom 0 ([(tmSplit s.cfg (s.buf bs) p).lead.length,
        (tmSplit s.cfg (s.buf bs) p).packets.length, (tmSplit s.cfg (s.buf bs) p).trail.length,
        fhpClass p].map val))
      (splitEvents (tmSplit s.cfg (s.buf bs) p))) := by
  rw [exec_past_usesBuf rfl hbs, hcheck]

theorem exec_pktPush_of_ok {p : ℕ} (hbs : bs.toNat < s.cfg.nbuf)
    (hcheck : frameCheck s.cfg (s.buf bs) = .ok p) :
    exec (.pktPush bs) s = complete s (finishEvents
      ((pktAccept (fhpClass p) (tmSplit s.cfg (s.buf bs) p) s).1.setResFrom 0
        [val (pktAccept (fhpClass p) (tmSplit s.cfg (s.buf bs) p) s).2.length, val (fhpClass p)])
      (pktAccept (fhpClass p) (tmSplit s.cfg (s.buf bs) p) s).2) := by
  rw [exec_past_usesBuf rfl hbs, hcheck]

/-- Settles O51: each check that fails, in the order of R206, is what the frame check answers
(`frameCheck_of_badSize` and the lemmas after it), and both commands raise it; a frame that passes
completes. -/
theorem badFramesRejected : Obligations.BadFramesRejected := by
  intro s bs hvalid hbs f i hi
  split_ifs with hbad hcrc hpointer
  · exact faults_of_frameCheck_error hi hbs (frameCheck_of_badSize hbad) rfl (by decide)
  all_goals
    have hsize : f.length = s.cfg.tmFrameSize := not_not.1 hbad
    have hlong : 2 ≤ f.length := two_le_frame_length hvalid hsize
  · rw [← hsize]
    exact faults_of_frameCheck_error hi hbs (frameCheck_of_badCrc hlong hsize hcrc) rfl (by decide)
  all_goals rw [not_and_not_right] at hcrc
  · exact faults_of_frameCheck_error hi hbs
      (frameCheck_of_badPointer hlong hsize hcrc hpointer) rfl (by decide)
  · have hgood : FrameGood s.cfg f := ⟨hsize, hcrc, by omega⟩
    have hcheck := hgood.frameCheck_eq hlong
    obtain rfl | rfl : i = .tmfSplit bs ∨ i = .pktPush bs := by simpa using hi
    · exact ⟨hgood, _, by rw [exec_tmfSplit_of_ok hbs hcheck]; rfl⟩
    · exact ⟨hgood, _, by rw [exec_pktPush_of_ok hbs hcheck]; rfl⟩

end Sys2Proof.Machine
end

section
/-! `tm_split` (44_frame_packet.md R207, R208): what the walk over the packets leaves, and the three parts of
a data field for each class of the pointer; then `TMF.SPLIT` (R209). -/

namespace Sys2Proof.Machine

variable {c : Config} {f q : Bytes}

/-! ### packets -/

theorem declaredSize_eq_sizeDeclared (hlength : 6 ≤ q.length) : declaredSize q = sizeDeclared q := by
  have hbytes : slice q 4 2 = [q.getD 4 0, q.getD 5 0] := by
    refine List.ext_getElem (by simp; omega) fun j hj _ => ?_
    rw [← List.getD_eq_getElem _ 0 hj, slice_getD _ _ _ _ (by simp at hj; omega)]
    match j, hj with
    | 0, _ => rfl
    | 1, _ => rfl
  rw [declaredSize, hbytes, be_pair, sizeDeclared]

theorem packetEvent_eq_packetOf (q : Bytes) : packetEvent q = packetOf q := by
  have hapid : apidOf q = (q.getD 0 0).toNat % 8 * 256 + (q.getD 1 0).toNat := by
    rw [apidOf, bitField_two_bytes q (by decide) (by decide)]
    norm_num
  simp only [packetEvent, packetOf, isIdle, hapid, decide_eq_true_iff, idleApid]

theorem isPacket_take_declaredSize (hlength : 7 ≤ q.length) (hfits : declaredSize q ≤ q.length) :
    IsPacket (q.take (declaredSize q)) := by
  have hsize : (q.take (declaredSize q)).length = declaredSize q := List.length_take_of_le hfits
  have hmin : 7 ≤ declaredSize q := Nat.le_add_left 7 _
  have hbyte : ∀ j < 7, (q.take (declaredSize q)).getD j 0 = q.getD j 0 := fun j hj => by
    rw [List.getD_eq_getElem?_getD, List.getElem?_take_of_lt (by omega), ← List.getD_eq_getElem?_getD]
  refine ⟨by omega, ?_⟩
  rw [hsize, hbyte 4 (by decide), hbyte 5 (by decide), declaredSize_eq_sizeDeclared (by omega),
    sizeDeclared]

/-! ### the walk -/

/-- Every turn that goes on takes at least 7 bytes, so with more turns than bytes the walk ends by itself
and loses nothing. -/
theorem walkPackets_flatten_append {fuel : ℕ} {d : Bytes} (hfuel : d.length < fuel) :
    (walkPackets fuel d).1.flatten ++ (walkPackets fuel d).2 = d := by
  induction fuel generalizing d with
  | zero => exact absurd hfuel (Nat.not_lt_zero _)
  | succ fuel ih =>
    rw [walkPackets]
    split_ifs with hshort hfits
    · rfl
    · have hmin : 7 ≤ declaredSize d := Nat.le_add_left 7 _
      have hrest := ih (d := d.drop (declaredSize d)) (by rw [List.length_drop]; omega)
      rw [List.flatten_cons, List.append_assoc, hrest, List.take_append_drop]
    · rfl

theorem isPacket_of_mem_walkPackets {fuel : ℕ} {d q : Bytes} (hq : q ∈ (walkPackets fuel d).1) :
    IsPacket q := by
  induction fuel generalizing d with
  | zero => exact absurd hq List.not_mem_nil
  | succ fuel ih =>
    rw [walkPackets] at hq
    split_ifs at hq with hshort hfits
    · exact absurd hq List.not_mem_nil
    · obtain rfl | hrest := List.mem_cons.1 hq
      · exact isPacket_take_declaredSize (Nat.le_of_not_lt hshort) hfits
      · exact ih hrest
    · exact absurd hq List.not_mem_nil

theorem Incomplete.length_lt (h : Incomplete q) : q.length < 7 ∨ q.length < sizeDeclared q := by
  by_cases hshort : q.length < 7
  · exact .inl hshort
  · rw [← declaredSize_eq_sizeDeclared (by omega)]
    exact .inr (h (Nat.le_of_not_lt hshort))

/-- No more packets than bytes. -/
theorem length_le_length_flatten {packets : List Bytes} (h : ∀ q ∈ packets, IsPacket q) :
    packets.length ≤ packets.flatten.length := by
  rw [List.length_flatten, ← List.length_map List.length]
  refine List.length_le_sum_of_one_le _ (List.forall_mem_map.2 fun q hq => ?_)
  obtain ⟨hlength, -⟩ := h q hq
  omega

/-! ### the parts of a data field -/

theorem dataField_eq_slice (c : Config) (f : Bytes) : dataField c f = slice f dfStart (dfLen c) :=
  List.drop_take

theorem dataField_length (hc : configValid c = true) (hsize : f.length = c.tmFrameSize) :
    (dataField c f).length = dfLen c := by
  have hfits := dfStart_add_dfLen_le hc
  rw [dataField_eq_slice, slice_length]
  omega

theorem dataField_ne_nil (hc : configValid c = true) (hsize : f.length = c.tmFrameSize) :
    dataField c f ≠ [] := by
  have hlength := dataField_length hc hsize
  have hmin := (dfLen_bounds hc).1
  exact List.ne_nil_of_length_pos (by omega)

theorem tmSplit_noFirst (c : Config) (f : Bytes) :
    tmSplit c f 0x7FF = { lead := dataField c f, packets := [], trail := [] } := by
  rw [dataField_eq_slice]
  rfl

theorem tmSplit_idle (c : Config) (f : Bytes) :
    tmSplit c f 0x7FE = { lead := [], packets := [], trail := [] } := rfl

/-- A data field with a pointer: a lead of its length, packets, and a trail that is no packet yet. -/
theorem tmSplit_pointer (c : Config) (f : Bytes) {p : ℕ} (hp : fhpClass p = 0) :
    (tmSplit c f p).lead = (dataField c f).take p ∧
      (tmSplit c f p).packets.flatten ++ (tmSplit c f p).trail = (dataField c f).drop p ∧
      ∀ q ∈ (tmSplit c f p).packets, IsPacket q := by
  rw [dataField_eq_slice, tmSplit, if_neg (by omega), if_neg (by omega)]
  exact ⟨rfl, walkPackets_flatten_append (Nat.lt_succ_self _), fun _ => isPacket_of_mem_walkPackets⟩

theorem splitEvents_eq (r : Parts) :
    splitEvents r =
      fragmentEvent .lead r.lead ++ r.packets.map packetOf ++ fragmentEvent .trail r.trail := by
  rw [splitEvents, funext packetEvent_eq_packetOf]

theorem fragmentEvent_of_ne_nil {d : Bytes} (k : EventKind) (hd : d ≠ []) :
    fragmentEvent k d = [{ kind := k, info := 0, data := d }] := if_neg hd

theorem fragmentEvent_take {d : Bytes} {p : ℕ} (k : EventKind) (hd : d ≠ []) :
    fragmentEvent k (d.take p) =
      if p = 0 then [] else [{ kind := k, info := 0, data := d.take p }] := by
  simp only [fragmentEvent, List.take_eq_nil_iff, hd, or_false]

/-! ### the command -/

section
variable {s : State} {bs : BufIx} {p : ℕ}

/-- `TMF.SPLIT` completes with these first four results and these events, and changes nothing else. -/
def SplitsInto (s : State) (bs : BufIx) (values : List ℕ) (events : List Event) : Prop :=
  ∃ t, exec (.tmfSplit bs) s = .next t ∧ (t.res.toList.take 4).map BitVec.toNat = values ∧
    SameMem s t ∧ SameResFrom 4 s t ∧ SameUnits s t ∧ Answers t [] events

variable (hc : configValid s.cfg = true) (hbs : bs.toNat < s.cfg.nbuf)
  (hgood : FrameGood s.cfg (s.buf bs)) (hp : pointerOf (s.buf bs) = p)
include hc hbs hgood hp

theorem splitsInto_of_parts {r : Parts} (hr : tmSplit s.cfg (s.buf bs) p = r)
    (hsmall : r.lead.length + r.packets.length + r.trail.length < 2 ^ 64) :
    SplitsInto s bs [r.lead.length, r.packets.length, r.trail.length, fhpClass p] (splitEvents r) := by
  have hcheck := hgood.frameCheck_eq (two_le_frame_length hc hgood.1)
  rw [hp] at hcheck
  have hexec := exec_tmfSplit_of_ok hbs hcheck
  rw [hr] at hexec
  refine completes_setResFrom hexec rfl (by decide) ?_
  simp only [List.forall_mem_cons]
  exact ⟨by omega, by omega, by omega, fhpClass_lt _, List.forall_mem_nil _⟩

theorem splitsInto_of_noFirst (hfirst : p = 0x7FF) :
    SplitsInto s bs [dfLen s.cfg, 0, 0, 1]
      [{ kind := .lead, info := 0, data := dataField s.cfg (s.buf bs) }] := by
  subst hfirst
  have hlength := dataField_length hc hgood.1
  have hmax := (dfLen_bounds hc).2
  have h := splitsInto_of_parts hc hbs hgood hp (tmSplit_noFirst _ _)
    (by simp only [List.length_nil]; omega)
  rwa [splitEvents_eq, fragmentEvent_of_ne_nil _ (dataField_ne_nil hc hgood.1), hlength] at h

theorem splitsInto_of_idle (hidle : p = 0x7FE) : SplitsInto s bs [0, 0, 0, 2] [] := by
  subst hidle
  exact splitsInto_of_parts hc hbs hgood hp (tmSplit_idle _ _) (by decide)

/-- The packets have the sizes they declare, and the trail is shorter than the packet it begins. -/
theorem splitsInto_of_pointer (hfirst : p ≠ 0x7FF) (hidle : p ≠ 0x7FE) :
    ∃ (packets : List Bytes) (trail : Bytes),
      packets.flatten ++ trail = (dataField s.cfg (s.buf bs)).drop p ∧
      (∀ q ∈ packets, IsPacket q) ∧ (trail.length < 7 ∨ trail.length < sizeDeclared trail) ∧
      SplitsInto s bs [p, packets.length, trail.length, 0]
        ((if p = 0 then []
            else [{ kind := .lead, info := 0, data := (dataField s.cfg (s.buf bs)).take p }]) ++
          packets.map packetOf ++ fragmentEvent .trail trail) := by
  have hclass : fhpClass p = 0 := (fhpClass_eq_zero_iff p).2 ⟨hfirst, hidle⟩
  have hlength := dataField_length hc hgood.1
  have hmax := (dfLen_bounds hc).2
  have hinside : p < dfLen s.cfg := by
    obtain ⟨-, -, hpointer⟩ := hgood
    omega
  have htrail := incomplete_tmSplit_trail s.cfg (s.buf bs) p
  obtain ⟨hlead, hrest, hpackets⟩ := tmSplit_pointer s.cfg (s.buf bs) hclass
  generalize hr : tmSplit s.cfg (s.buf bs) p = r at *
  have hleadLength : r.lead.length = p := by
    rw [hlead, List.length_take_of_le (by omega)]
  have hrestLength := congrArg List.length hrest
  rw [List.length_append, List.length_drop] at hrestLength
  have hcount := length_le_length_flatten hpackets
  have h := splitsInto_of_parts hc hbs hgood hp hr (by omega)
  rw [hleadLength, hclass, splitEvents_eq, hlead,
    fragmentEvent_take _ (dataField_ne_nil hc hgood.1)] at h
  exact ⟨r.packets, r.trail, hrest, hpackets, htrail.length_lt, h⟩

end

/-- Settles O52: a frame that fails the check faults (`frameGood_or_frameCheck_error`); one that passes is
split as the class of its pointer says (`splitsInto_of_noFirst`, `splitsInto_of_idle`,
`splitsInto_of_pointer`). -/
theorem tmfSplitPartitions : Obligations.TmfSplitPartitions := by
  intro s bs hc
  refine ⟨needsBuf_of_operand rfl, fun hbs hbad => ?_, fun hbs hgood => ?_⟩
  · obtain hgood | ⟨r, a, hreason, hcheck⟩ := frameGood_or_frameCheck_error hc (s.buf bs)
    · exact absurd hgood hbad
    · exact ⟨r, a, hreason,
        faults_of_frameCheck_error (by simp) hbs hcheck rfl hreason.statusOf_ne_ok⟩
  intro p d
  have hlength : d.length = dfLen s.cfg := dataField_length hc hgood.1
  by_cases hfirst : p = 0x7FF
  · obtain ⟨t, hexec, hvalues, hmem, hres, hunits, hanswers⟩ :=
      splitsInto_of_noFirst hc hbs hgood rfl hfirst
    exact ⟨t, _, hexec, hanswers, hmem, hres, hunits, hlength, fun _ => ⟨rfl, hvalues⟩,
      fun hidle => absurd (hfirst.symm.trans hidle) (by decide), absurd hfirst⟩
  by_cases hidle : p = 0x7FE
  · obtain ⟨t, hexec, hvalues, hmem, hres, hunits, hanswers⟩ :=
      splitsInto_of_idle hc hbs hgood rfl hidle
    exact ⟨t, _, hexec, hanswers, hmem, hres, hunits, hlength, fun h => absurd h hfirst,
      fun _ => ⟨rfl, hvalues⟩, fun _ => absurd hidle⟩
  · obtain ⟨packets, trail, hrest, hpackets, htrail, t, hexec, hvalues, hmem, hres, hunits, hanswers⟩ :=
      splitsInto_of_pointer hc hbs hgood rfl hfirst hidle
    refine ⟨t, _, hexec, hanswers, hmem, hres, hunits, hlength, fun h => absurd h hfirst,
      fun h => absurd h hidle, fun _ _ => ⟨packets, trail, ?_, hpackets, htrail, rfl, hvalues⟩⟩
    rw [List.append_assoc, hrest, List.take_append_drop]

end Sys2Proof.Machine
end

section
/-! The frame that the Assembler emits (45_assembler.md R222): its header, its data field and its CRC. -/

namespace Sys2Proof.Machine

variable {c : Config} {s : State} {f : Bytes}

/-! ### finalised frames -/

/-- A frame finalised with these ids, counters and pointer (45_assembler.md R222). -/
structure FrameFinal (c : Config) (ids mc vc p : ℕ) (f : Bytes) : Prop where
  length : f.length = c.tmFrameSize
  ids : (f.getD 0 0).toNat * 256 + (f.getD 1 0).toNat = ids
  master : (f.getD 2 0).toNat = mc % 256
  virtual : (f.getD 3 0).toNat = vc % 256
  pointer : (f.getD 4 0).toNat * 256 + (f.getD 5 0).toNat = 0x1800 + p
  crc : c.tmHasCrc = true → CrcAgrees f

/-- A frame that an Assembler in state `s` finalises after `j` others, with the pointer `p`. -/
def State.Finalises (s : State) (j p : ℕ) (f : Bytes) : Prop :=
  FrameFinal s.cfg (s.asmScid.toNat * 16 + s.asmVcid.toNat * 2) (s.asmMcfc.toNat + j)
    (s.asmVcfc.toNat + j) p f

theorem FrameFinal.pointerOf_eq {ids mc vc p : ℕ} (h : FrameFinal c ids mc vc p f) (hp : p < 2048) :
    pointerOf f = p := by
  rw [pointerOf, h.pointer]
  omega

/-! ### the primary header -/

theorem toBe_two_toNat {v : ℕ} (hv : v < 65536) :
    ((toBe v 2).getD 0 0).toNat * 256 + ((toBe v 2).getD 1 0).toNat = v := by
  simp [toBe]
  omega

theorem asmHeader_length (s : State) : (asmHeader s).length = dfStart := by
  simp [asmHeader, dfStart]

theorem asmHeader_ids (s : State) :
    ((asmHeader s).getD 0 0).toNat * 256 + ((asmHeader s).getD 1 0).toNat =
      s.asmScid.toNat * 16 + s.asmVcid.toNat * 2 :=
  toBe_two_toNat (by have := s.asmScid.isLt; have := s.asmVcid.isLt; omega)

theorem asmHeader_pointer (s : State) :
    ((asmHeader s).getD 4 0).toNat * 256 + ((asmHeader s).getD 5 0).toNat = 0x1800 + s.asmFhp.toNat :=
  toBe_two_toNat (by have := s.asmFhp.isLt; omega)

/-! ### the frame as it is delivered -/

theorem overwrite_zero (d h : Bytes) : overwrite d 0 h = h ++ d.drop h.length := by
  rw [overwrite, List.take_zero, List.nil_append, Nat.zero_add]

theorem dfStart_le_dfEnd (hc : configValid c = true) : dfStart ≤ dfEnd c := by
  have := (dfLen_bounds hc).1
  unfold dfLen at this
  omega

section
variable (hc : configValid s.cfg = true) (hlength : s.asmFrame.length = s.cfg.tmFrameSize)
include hc hlength

theorem overwrite_asmHeader_length :
    (overwrite s.asmFrame 0 (asmHeader s)).length = s.cfg.tmFrameSize := by
  have := dfStart_add_dfLen_le hc
  rw [overwrite_length _ _ _ (by rw [asmHeader_length, hlength]; omega), hlength]

theorem finalFrame_length : (finalFrame s).length = s.cfg.tmFrameSize := by
  have hsize := overwrite_asmHeader_length hc hlength
  unfold finalFrame
  split
  · rw [withCrc_length _ (two_le_frame_length hc hsize), hsize]
  · exact hsize

/-- Up to the trailer the frame is its header and the data field of `ASM_FRAME`. -/
theorem finalFrame_take_dfEnd :
    (finalFrame s).take (dfEnd s.cfg) = asmHeader s ++ dataField s.cfg s.asmFrame := by
  have hsize := overwrite_asmHeader_length hc hlength
  have hlong := two_le_frame_length hc hsize
  have hbody : (overwrite s.asmFrame 0 (asmHeader s)).take (dfEnd s.cfg) =
      asmHeader s ++ dataField s.cfg s.asmFrame := by
    rw [overwrite_zero, asmHeader_length, dataField, List.drop_take, List.take_append,
      asmHeader_length, List.take_of_length_le]
    rw [asmHeader_length]
    exact dfStart_le_dfEnd hc
  have htrailer : dfEnd s.cfg = s.cfg.tmFrameSize - if s.cfg.tmHasCrc = true then 2 else 0 := rfl
  unfold finalFrame
  split
  case isTrue hcrc =>
    rw [if_pos hcrc, ← hsize] at htrailer
    rw [withCrc_eq_appendCrc hlong, appendCrc, List.take_left' (by simp; omega), ← hbody, htrailer]
  case isFalse => exact hbody

theorem dataField_finalFrame : dataField s.cfg (finalFrame s) = dataField s.cfg s.asmFrame := by
  rw [dataField, finalFrame_take_dfEnd hc hlength, List.drop_left' (asmHeader_length s)]

theorem finalFrame_getD {k : ℕ} (hk : k < 6) : (finalFrame s).getD k 0 = (asmHeader s).getD k 0 := by
  have hinside : k < dfEnd s.cfg := Nat.lt_of_lt_of_le hk (dfStart_le_dfEnd hc)
  have hheader : k < (asmHeader s).length := hk.trans_eq (asmHeader_length s).symm
  rw [List.getD_eq_getElem?_getD, ← List.getElem?_take_of_lt hinside, finalFrame_take_dfEnd hc hlength,
    List.getElem?_append_left hheader, ← List.getD_eq_getElem?_getD]

theorem crcAgrees_finalFrame (hcrc : s.cfg.tmHasCrc = true) : CrcAgrees (finalFrame s) := by
  have hsize := overwrite_asmHeader_length hc hlength
  have hfinal : finalFrame s = withCrc (overwrite s.asmFrame 0 (asmHeader s)) := if_pos hcrc
  rw [hfinal, withCrc_eq_appendCrc (two_le_frame_length hc hsize)]
  exact crcAgrees_appendCrc _

theorem finalises_finalFrame : s.Finalises 0 s.asmFhp.toNat (finalFrame s) := by
  have hbyte {k : ℕ} (hk : k < 6) := finalFrame_getD hc hlength hk
  refine ⟨finalFrame_length hc hlength, ?_, ?_, ?_, ?_, crcAgrees_finalFrame hc hlength⟩
  · rw [hbyte (by decide), hbyte (by decide)]
    exact asmHeader_ids s
  · rw [hbyte (by decide)]
    exact (Nat.mod_eq_of_lt s.asmMcfc.isLt).symm
  · rw [hbyte (by decide)]
    exact (Nat.mod_eq_of_lt s.asmVcfc.isLt).symm
  · rw [hbyte (by decide), hbyte (by decide)]
    exact asmHeader_pointer s

end

end Sys2Proof.Machine
end

section
/-! The loop of `asm_put` (45_assembler.md R223) as a relation: it fills and finalises one frame after
another until the bytes left no longer fill one. What it conserves is proved by induction on the frames. -/

namespace Sys2Proof.Machine

variable {s t : State} {d : Bytes} {fs : List Bytes}

/-! ### copying -/

theorem asmCopy_nil (s : State) : asmCopy [] s = s := by
  simp [asmCopy, overwrite]

theorem placed_length (hwr : dfStart + s.asmWr.toNat ≤ s.asmFrame.length) :
    (placed s).length = s.asmWr.toNat := by
  rw [placed, slice_length]
  omega

theorem placed_of_asmWr_eq_zero (hwr : s.asmWr = 0) : placed s = [] := by
  rw [placed, hwr]
  exact List.take_zero

section
variable (hc : configValid s.cfg = true) (hlength : s.asmFrame.length = s.cfg.tmFrameSize)
  (hroom : s.asmWr.toNat + d.length ≤ dfLen s.cfg)
include hc hlength hroom

theorem asmCopy_asmFrame_length : (asmCopy d s).asmFrame.length = s.cfg.tmFrameSize := by
  have := dfStart_add_dfLen_le hc
  rw [asmCopy_asmFrame, overwrite_length _ _ _ (by omega), hlength]

theorem placed_asmCopy : placed (asmCopy d s) = placed s ++ d := by
  have := dfStart_add_dfLen_le hc
  have hbefore : (s.asmFrame.take (dfStart + s.asmWr.toNat)).length = dfStart + s.asmWr.toNat :=
    List.length_take_of_le (by omega)
  have hplaced : (s.asmFrame.take (dfStart + s.asmWr.toNat)).drop dfStart = placed s := by
    rw [List.drop_take, Nat.add_sub_cancel_left, placed, slice]
  have hsize : (placed s ++ d).length = (asmCopy d s).asmWr.toNat := by
    rw [asmCopy_asmWr_toNat hc hroom, List.length_append, placed_length (by omega)]
  rw [placed, asmCopy_asmFrame, overwrite, slice, List.append_assoc,
    List.drop_append_of_le_length (by omega), hplaced, ← List.append_assoc, List.take_left' hsize]

end

/-- A full frame is finalised with the bytes placed as its data field. -/
theorem dataField_finalFrame_of_full (hc : configValid s.cfg = true)
    (hlength : s.asmFrame.length = s.cfg.tmFrameSize) (hfull : s.asmWr.toNat = dfLen s.cfg) :
    dataField s.cfg (finalFrame s) = placed s := by
  rw [dataField_finalFrame hc hlength, dataField_eq_slice, placed, hfull]

/-! ### the loop as a relation -/

/-- Placing the bytes `d` in the open frame of `s` leads to `t` and emits the frames `fs`. -/
inductive Fills : State → Bytes → State → List Bytes → Prop
  | fits {s : State} {d : Bytes} (hroom : s.asmWr.toNat + d.length < dfLen s.cfg) :
      Fills s d (asmCopy d s) []
  | full {s t : State} {d rest : Bytes} {fs : List Bytes}
      (hfull : s.asmWr.toNat + d.length = dfLen s.cfg)
      (hrest : Fills (asmFinalize (asmCopy d s)) rest t fs) :
      Fills s (d ++ rest) t (finalFrame (asmCopy d s) :: fs)

theorem asmFill_nil (fuel : ℕ) (s : State) : asmFill fuel [] s = (s, []) := by
  cases fuel with
  | zero => rfl
  | succ fuel => rw [asmFill, if_pos rfl]

theorem asmFill_of_fits {fuel : ℕ} (hc : configValid s.cfg = true)
    (hroom : s.asmWr.toNat + d.length < dfLen s.cfg) :
    asmFill (fuel + 1) d s = (asmCopy d s, []) := by
  by_cases hd : d = []
  · rw [hd, asmFill_nil, asmCopy_nil]
  · have hmin : min d.length (dfLen s.cfg - s.asmWr.toNat) = d.length := by omega
    have hopen : (asmCopy d s).asmWr.toNat ≠ dfLen s.cfg := by
      rw [asmCopy_asmWr_toNat hc hroom.le]
      omega
    simp only [asmFill, if_neg hd, hmin, List.take_length, if_neg hopen, List.drop_length, asmFill_nil]

theorem asmFill_of_full {fuel : ℕ} {rest : Bytes} (hc : configValid s.cfg = true)
    (hwr : s.asmWr.toNat < dfLen s.cfg) (hfull : s.asmWr.toNat + d.length = dfLen s.cfg) :
    asmFill (fuel + 1) (d ++ rest) s =
      let r := asmFill fuel rest (asmFinalize (asmCopy d s))
      (r.1, frameOf (finalFrame (asmCopy d s)) :: r.2) := by
  have hne : d ++ rest ≠ [] := List.append_ne_nil_of_left_ne_nil
    (List.ne_nil_of_length_pos (by omega)) rest
  have hmin : min (d ++ rest).length (dfLen s.cfg - s.asmWr.toNat) = d.length := by
    rw [List.length_append]
    omega
  have hclosed : (asmCopy d s).asmWr.toNat = dfLen s.cfg :=
    (asmCopy_asmWr_toNat hc hfull.le).trans hfull
  simp only [asmFill, if_neg hne, hmin, List.take_left, List.drop_left, if_pos hclosed]
  rfl

theorem exists_fills_asmFill {fuel : ℕ} (hc : configValid s.cfg = true)
    (hwr : s.asmWr.toNat < dfLen s.cfg) (hfuel : d.length < fuel) :
    ∃ t fs, asmFill fuel d s = (t, fs.map frameOf) ∧ Fills s d t fs := by
  induction fuel generalizing d s with
  | zero => exact absurd hfuel (Nat.not_lt_zero _)
  | succ fuel ih =>
    obtain hroom | hover := Nat.lt_or_ge (s.asmWr.toNat + d.length) (dfLen s.cfg)
    · exact ⟨_, [], asmFill_of_fits hc hroom, .fits hroom⟩
    · obtain ⟨first, rest, rfl, hfirst⟩ :
          ∃ first rest, d = first ++ rest ∧ first.length = dfLen s.cfg - s.asmWr.toNat :=
        ⟨_, _, (List.take_append_drop _ d).symm, List.length_take_of_le (by omega)⟩
      have hfull : s.asmWr.toNat + first.length = dfLen s.cfg := by omega
      rw [List.length_append] at hfuel
      obtain ⟨t, fs, hrun, hrest⟩ := ih (s := asmFinalize (asmCopy first s)) (d := rest) hc
        (Nat.zero_lt_of_lt hwr) (by omega)
      refine ⟨t, finalFrame (asmCopy first s) :: fs, ?_, .full hfull hrest⟩
      rw [asmFill_of_full hc hwr hfull, hrun]
      rfl

/-! ### what the loop conserves -/

/-- No byte is lost: they are in the data fields of the frames, and in the open frame. -/
theorem Fills.placed_append (h : Fills s d t fs) (hc : configValid s.cfg = true)
    (hlength : s.asmFrame.length = s.cfg.tmFrameSize) :
    placed s ++ d = (fs.map (dataField s.cfg)).flatten ++ placed t := by
  induction h with
  | fits hroom => exact (placed_asmCopy hc hlength hroom.le).symm
  | @full s t d rest fs hfull hrest ih =>
    have hframe : dataField s.cfg (finalFrame (asmCopy d s)) = placed (asmCopy d s) :=
      dataField_finalFrame_of_full (s := asmCopy d s) hc
        (asmCopy_asmFrame_length hc hlength hfull.le)
        ((asmCopy_asmWr_toNat hc hfull.le).trans hfull)
    have hempty : placed (asmFinalize (asmCopy d s)) = [] := placed_of_asmWr_eq_zero rfl
    have hrest := ih hc List.length_replicate
    rw [hempty, List.nil_append] at hrest
    calc placed s ++ (d ++ rest) = placed (asmCopy d s) ++ rest := by
          rw [placed_asmCopy hc hlength hfull.le, List.append_assoc]
      _ = dataField s.cfg (finalFrame (asmCopy d s)) ++
            ((fs.map (dataField s.cfg)).flatten ++ placed t) := by rw [hframe, hrest]; rfl
      _ = _ := by rw [List.map_cons, List.flatten_cons, List.append_assoc]

theorem Fills.asmFhp_eq (h : Fills s d t fs) : t.asmFhp = if fs = [] then s.asmFhp else 0x7FF := by
  induction h with
  | fits => rfl
  | full _ _ ih =>
    rw [ih, asmFinalize_asmFhp, ite_self, if_neg (List.cons_ne_nil _ _)]

theorem byte_toNat_add_one (b : Byte) : (b + 1).toNat = (b.toNat + 1) % 256 := by
  rw [BitVec.toNat_add]
  rfl

/-- Both counters count the frames. -/
theorem Fills.counters (h : Fills s d t fs) :
    t.asmVcfc.toNat = (s.asmVcfc.toNat + fs.length) % 256 ∧
      t.asmMcfc.toNat = (s.asmMcfc.toNat + fs.length) % 256 := by
  induction h with
  | @fits s => exact ⟨(Nat.mod_eq_of_lt s.asmVcfc.isLt).symm, (Nat.mod_eq_of_lt s.asmMcfc.isLt).symm⟩
  | @full s =>
    have hvirtual := byte_toNat_add_one s.asmVcfc
    have hmaster := byte_toNat_add_one s.asmMcfc
    simp only [asmFinalize_asmVcfc, asmFinalize_asmMcfc, asmCopy_asmVcfc, asmCopy_asmMcfc] at *
    rw [List.length_cons]
    omega

/-- An Assembler that has finalised `n` frames since `s` goes on where `s` would after `n` frames. -/
theorem State.Finalises.of_later {n j p : ℕ} {f : Bytes} (h : t.Finalises j p f) (hcfg : t.cfg = s.cfg)
    (hscid : t.asmScid = s.asmScid) (hvcid : t.asmVcid = s.asmVcid)
    (hmaster : t.asmMcfc.toNat = (s.asmMcfc.toNat + n) % 256)
    (hvirtual : t.asmVcfc.toNat = (s.asmVcfc.toNat + n) % 256) : s.Finalises (n + j) p f := by
  obtain ⟨hlength, hids, hmc, hvc, hpointer, hcrc⟩ := h
  rw [hcfg] at hlength hcrc
  rw [hscid, hvcid] at hids
  exact ⟨hlength, hids, by omega, by omega, hpointer, hcrc⟩

/-- Only the first frame has the pointer of the open frame: a packet that continues starts in none of
the others. -/
theorem Fills.finalises (h : Fills s d t fs) (hc : configValid s.cfg = true)
    (hlength : s.asmFrame.length = s.cfg.tmFrameSize) {j : ℕ} {f : Bytes} (hf : fs[j]? = some f) :
    s.Finalises j (if j = 0 then s.asmFhp.toNat else 0x7FF) f := by
  induction h generalizing j with
  | fits => exact absurd hf (by simp)
  | @full s t d rest fs hfull hrest ih =>
    cases j with
    | zero =>
      obtain rfl : finalFrame (asmCopy d s) = f := by simpa using hf
      exact finalises_finalFrame (s := asmCopy d s) hc (asmCopy_asmFrame_length hc hlength hfull.le)
    | succ j =>
      have hlater := ih hc List.length_replicate (j := j) (by simpa using hf)
      rw [asmFinalize_asmFhp] at hlater
      rw [Nat.add_comm j 1, if_neg (by omega)]
      refine State.Finalises.of_later ?_ rfl rfl rfl (byte_toNat_add_one _) (byte_toNat_add_one _)
        (t := asmFinalize (asmCopy d s))
      split at hlater <;> exact hlater

end Sys2Proof.Machine
end

section
/-! `asm_put` (45_assembler.md R223): what placing a packet does, for `ASM.PUSH` and `ASM.FLUSH` to cite. -/

namespace Sys2Proof.Machine

variable {s t : State} {d : Bytes} {fs : List Bytes}

/-! ### the start of a packet -/

/-- `s` with the pointer that its open frame has once a packet starts in it. -/
def packetStart (s : State) : State := { s with asmFhp := BitVec.ofNat 11 (startPointer s) }

theorem packetStart_asmFhp_toNat (s : State) : (packetStart s).asmFhp.toNat = startPointer s := by
  have hwr := s.asmWr.isLt
  have hfhp := s.asmFhp.isLt
  have hlt : startPointer s < 2 ^ 11 := by unfold startPointer; split <;> omega
  rw [packetStart, BitVec.toNat_ofNat, Nat.mod_eq_of_lt hlt]

theorem asmFhp_toNat_eq_noFirst_iff (s : State) : s.asmFhp.toNat = 0x7FF ↔ s.asmFhp = 0x7FF :=
  BitVec.toNat_inj (y := 0x7FF)

theorem asmPut_eq_asmFill (d : Bytes) (s : State) :
    asmPut d s = asmFill (d.length + 1) d (packetStart s) := by
  have hsentinel : s.asmFhp.toNat = fhpNoFirst ↔ s.asmFhp = 0x7FF := asmFhp_toNat_eq_noFirst_iff s
  unfold asmPut packetStart startPointer
  by_cases hfhp : s.asmFhp = 0x7FF
  · rw [if_pos (hsentinel.2 hfhp), if_pos hfhp, BitVec.ofNat_toNat, BitVec.setWidth_eq]
  · rw [if_neg (mt hsentinel.1 hfhp), if_neg hfhp, BitVec.ofNat_toNat, BitVec.setWidth_eq]

/-- The pointer is inside the data field, so it is neither sentinel. -/
theorem startPointer_lt (h : s.FrameOpen 0) : startPointer s < dfLen s.cfg := by
  have hwr := h.wr_lt
  unfold startPointer
  split
  case isTrue => exact hwr
  case isFalse hfhp =>
    have hpointer := h.pointer.resolve_left (mt (asmFhp_toNat_eq_noFirst_iff s).1 hfhp)
    omega

/-! ### what placing a packet does -/

/-- `asm_put` of `d` takes `s` to `t` and emits the frames `fs` (45_assembler.md R222, R223, R229). -/
structure Puts (s : State) (d : Bytes) (t : State) (fs : List Bytes) : Prop where
  keeps : t = withAsmOf s t
  frameOpen : t.FrameOpen 0
  placed_append : placed s ++ d = (fs.map (dataField s.cfg)).flatten ++ placed t
  finalises : ∀ {j : ℕ} {f : Bytes}, fs[j]? = some f →
    s.Finalises j (if j = 0 then startPointer s else 0x7FF) f
  asmFhp_toNat : t.asmFhp.toNat = if fs = [] then startPointer s else 0x7FF
  asmVcfc_toNat : t.asmVcfc.toNat = (s.asmVcfc.toNat + fs.length) % 256
  asmMcfc_toNat : t.asmMcfc.toNat = (s.asmMcfc.toNat + fs.length) % 256

theorem exists_puts (hc : configValid s.cfg = true) (h : s.FrameOpen 0) (hd : 0 < d.length) :
    ∃ t fs, asmPut d s = (t, fs.map frameOf) ∧ Puts s d t fs := by
  obtain ⟨t, fs, hrun, hfills⟩ :=
    exists_fills_asmFill (s := packetStart s) (d := d) hc h.wr_lt (Nat.lt_succ_self _)
  have hput : asmPut d s = (t, fs.map frameOf) := (asmPut_eq_asmFill d s).trans hrun
  have hstate : (asmPut d s).1 = t := congrArg Prod.fst hput
  have hkeeps : t = withAsmOf s t := hstate ▸ asmPut_frame d s
  obtain ⟨hvirtual, hmaster⟩ := hfills.counters
  refine ⟨t, fs, hput, hkeeps, hstate ▸ frameOpen_asmPut hc hd h, hfills.placed_append hc h.length,
    fun {j f} hf => ?_, ?_, hvirtual, hmaster⟩
  · rw [← packetStart_asmFhp_toNat]
    exact hfills.finalises hc h.length hf
  · rw [hfills.asmFhp_eq, apply_ite BitVec.toNat, packetStart_asmFhp_toNat]
    rfl

theorem placed_length_of_frameOpen (hc : configValid s.cfg = true) (h : s.FrameOpen 0) :
    (placed s).length = s.asmWr.toNat := by
  have := dfStart_add_dfLen_le hc
  have := h.wr_lt
  exact placed_length (by rw [h.length]; omega)

theorem Puts.cfg_eq (h : Puts s d t fs) : t.cfg = s.cfg := by
  rw [h.keeps]
  rfl

/-- The number of frames: each takes `DF_LEN` bytes, and fewer are left in the open frame. -/
theorem Puts.length_eq (h : Puts s d t fs) (hc : configValid s.cfg = true) (hopen : s.FrameOpen 0) :
    s.asmWr.toNat + d.length = dfLen s.cfg * fs.length + t.asmWr.toNat := by
  have hfield : ∀ f ∈ fs, (List.length ∘ dataField s.cfg) f = dfLen s.cfg := fun f hf => by
    obtain ⟨j, hj⟩ := List.getElem?_of_mem hf
    exact dataField_length hc (h.finalises hj).length
  have hfields : ((fs.map (dataField s.cfg)).flatten).length = dfLen s.cfg * fs.length := by
    rw [List.length_flatten, List.map_map, List.map_congr_left hfield, List.map_const',
      List.sum_replicate, smul_eq_mul, Nat.mul_comm]
  have hbefore := placed_length_of_frameOpen hc hopen
  have hafter := placed_length_of_frameOpen (h.cfg_eq.symm ▸ hc) h.frameOpen
  have hlengths := congrArg List.length h.placed_append
  rwa [List.length_append, List.length_append, hfields, hbefore, hafter] at hlengths

theorem Puts.div_mod (h : Puts s d t fs) (hc : configValid s.cfg = true) (hopen : s.FrameOpen 0) :
    fs.length = (s.asmWr.toNat + d.length) / dfLen s.cfg ∧
      t.asmWr.toNat = (s.asmWr.toNat + d.length) % dfLen s.cfg := by
  have hwr := h.frameOpen.wr_lt
  rw [h.cfg_eq] at hwr
  rw [h.length_eq hc hopen]
  constructor
  · rw [Nat.mul_add_div (Nat.zero_lt_of_lt hwr), Nat.div_eq_of_lt hwr, Nat.add_zero]
  · rw [Nat.mul_add_mod, Nat.mod_eq_of_lt hwr]

end Sys2Proof.Machine
end

section
/-! How a command of the ASM family completes, and `ASM.INIT` and `ASM.PUSH` (45_assembler.md R222 to R224,
R227). -/

namespace Sys2Proof.Machine

variable {i : Instr} {s t u : State} {bs : BufIx} {d : Bytes} {fs : List Bytes}

/-! ### completion with frames -/

/-- `i` ends with `OK` in `s`, with the Assembler as in `u`, the frames `fs` as its events, and their number
in `RES[0]`. -/
structure AsmAnswers (i : Instr) (s u : State) (fs : List Bytes) : Prop where
  keeps : u = withAsmOf s u
  exec_eq : exec i s = complete s (finishEvents (u.setRes 0 (val fs.length)) (fs.map frameOf))

theorem AsmAnswers.completes (h : AsmAnswers i s u fs) :
    ∃ t, exec i s = .next t ∧ Answers t [] (fs.map frameOf) ∧ t.res[0] = BitVec.ofNat 64 fs.length ∧
      SameAsm u t ∧ placed t = placed u ∧ t.asmScid = s.asmScid ∧ t.asmVcid = s.asmVcid ∧
      SameMem s t ∧ SameResFrom 1 s t ∧ t.bchSr = s.bchSr ∧ SamePkt s t ∧ SameRest s t := by
  obtain ⟨hkeeps, hexec⟩ := h
  generalize hv : withAsmOf s u = v at hkeeps
  subst hkeeps
  refine ⟨_, hexec, rfl, setRes_zero_res_zero u _, sameAsm_refl _, rfl, ?_⟩
  rw [← hv]
  exact ⟨rfl, rfl, fun _ _ => rfl, sameResFrom_one_setRes (withAsmOf s u) _, rfl, samePkt_refl _,
    rfl, rfl, rfl⟩

theorem AsmAnswers.events_eq (h : AsmAnswers i s u fs) (hexec : exec i s = .next t) {r : Response}
    (hresponse : t.response = some r) : r.events = fs.map frameOf := by
  rw [h.exec_eq] at hexec
  cases hexec
  cases hresponse
  rfl

/-! ### the commands -/

/-- Settles O56: `asm_open()` is all that `ASM.INIT` does. -/
theorem asmInitOpens : Obligations.AsmInitOpens := fun s =>
  ⟨_, rfl, rfl, rfl, rfl, rfl, rfl, rfl, rfl, fun _ _ => rfl, fun _ _ => rfl, rfl, samePkt_refl s,
    ⟨rfl, rfl, rfl⟩, rfl⟩

theorem isPacket_iff_declaredSize :
    IsPacket d ↔ minPkt ≤ d.length ∧ d.length = declaredSize d :=
  and_congr_right fun hlength => by
    rw [declaredSize_eq_sizeDeclared (Nat.le_of_succ_le hlength), sizeDeclared]

/-- Both checks of `ASM.PUSH` raise the same fault: the buffer is no packet. -/
theorem faults_asmPush_of_not_isPacket (hbs : bs.toNat < s.cfg.nbuf) (hpacket : ¬ IsPacket (s.buf bs)) :
    Faults (.asmPush bs) s .malformedInput .badPacketLength (s.buf bs).length := by
  refine faults_of_raised rfl (by decide) ?_
  rw [isPacket_iff_declaredSize, not_and] at hpacket
  rw [exec_past_usesBuf rfl hbs]
  by_cases hlength : minPkt ≤ (s.buf bs).length
  · rw [decide_eq_true hlength, decide_eq_false (hpacket hlength), require_true, require_false]
  · rw [decide_eq_false hlength, require_false]

theorem asmAnswers_asmPush (hbs : bs.toNat < s.cfg.nbuf) (hpacket : IsPacket (s.buf bs))
    (hrun : asmPut (s.buf bs) s = (t, fs.map frameOf)) (hput : Puts s (s.buf bs) t fs) :
    AsmAnswers (.asmPush bs) s t fs := by
  obtain ⟨hlength, hsize⟩ := isPacket_iff_declaredSize.1 hpacket
  refine ⟨hput.keeps, ?_⟩
  rw [exec_past_usesBuf rfl hbs, decide_eq_true hlength, decide_eq_true hsize, require_true,
    require_true, hrun]
  simp only [List.length_map]

/-- `ASM.PUSH` of a packet is one `asm_put`. -/
theorem exists_asmAnswers_asmPush (h : s.Inv) (hbs : bs.toNat < s.cfg.nbuf)
    (hpacket : IsPacket (s.buf bs)) :
    ∃ t fs, Puts s (s.buf bs) t fs ∧ AsmAnswers (.asmPush bs) s t fs := by
  have hlength : 0 < (s.buf bs).length := Nat.zero_lt_of_lt hpacket.1
  obtain ⟨t, fs, hrun, hput⟩ := exists_puts h.params (frameOpen_of_inv h) hlength
  exact ⟨t, fs, hput, asmAnswers_asmPush hbs hpacket hrun hput⟩

/-- Settles O53: `ASM.PUSH` checks the packet and places it (`exists_asmAnswers_asmPush`); `Puts` says what
that conserves, and how many frames it takes (`Puts.div_mod`). -/
theorem asmPushPlacesPacket : Obligations.AsmPushPlacesPacket := by
  intro s bs h
  refine ⟨needsBuf_of_operand rfl, fun hbs =>
    ⟨faults_asmPush_of_not_isPacket hbs, fun hpacket => ?_⟩⟩
  obtain ⟨u, fs, hput, hcompletes⟩ := exists_asmAnswers_asmPush h hbs hpacket
  obtain ⟨t, hexec, hanswers, hres, ⟨-, -, hvcfc, hmcfc, hwr, hfhp, -⟩, hplaced, hframe⟩ :=
    hcompletes.completes
  obtain ⟨hcount, hleft⟩ := hput.div_mod h.params (frameOpen_of_inv h)
  have hmax := (dfLen_bounds h.params).2
  have hstart := startPointer_lt (frameOpen_of_inv h)
  refine ⟨t, fs, hexec, hanswers, ?_, hcount, ?_, hres, fun j f hf => ?_, ?_, ?_, ?_, hframe⟩
  · rw [hplaced]
    exact hput.placed_append
  · rw [hwr]
    exact hleft
  · exact (hput.finalises hf).pointerOf_eq (by split <;> omega)
  · rw [hfhp]
    exact hput.asmFhp_toNat
  · rw [hvcfc]
    exact hput.asmVcfc_toNat
  · rw [hmcfc]
    exact hput.asmMcfc_toNat

end Sys2Proof.Machine
end

section
/-! `ASM.FLUSH` (45_assembler.md R225, R226): its loop takes no turn, one or two, and each turn places one
idle packet that completes one frame. -/

namespace Sys2Proof.Machine

variable {s t : State} {d : Bytes} {fs : List Bytes}

/-! ### idle packets -/

theorem idlePacket_eq_idleOf (c : Config) (n : ℕ) : idlePacket c n = idleOf c n := by
  have hhigh : BitVec.ofNat 8 ((n - 7) % 256) = BitVec.ofNat 8 ((n - 7) / 256 ^ 0) :=
    BitVec.eq_of_toNat_eq (by simp)
  rw [idleOf, hhigh]
  rfl

theorem idleOf_length {c : Config} {n : ℕ} (hn : 6 ≤ n) : (idleOf c n).length = n := by
  simp only [idleOf, List.length_append, List.length_replicate, List.length_cons, List.length_nil]
  omega

/-! ### one turn -/

/-- The bytes that the open frame has room for. -/
def freeBytes (s : State) : ℕ := dfLen s.cfg - s.asmWr.toNat

theorem asmFlushLoop_of_empty (fuel : ℕ) (hwr : s.asmWr = 0) : asmFlushLoop fuel s = (s, []) := by
  cases fuel with
  | zero => rfl
  | succ fuel => rw [asmFlushLoop, if_pos hwr]

theorem asmFlushLoop_of_put {fuel : ℕ} (hwr : s.asmWr ≠ 0)
    (hput : asmPut (idleOf s.cfg (max (freeBytes s) 7)) s = (t, fs.map frameOf)) :
    asmFlushLoop (fuel + 1) s =
      ((asmFlushLoop fuel t).1, fs.map frameOf ++ (asmFlushLoop fuel t).2) := by
  rw [← idlePacket_eq_idleOf, freeBytes] at hput
  rw [asmFlushLoop, if_neg hwr, hput]

/-- An idle packet that reaches the end of the data field, but not that of the next, completes one frame. -/
theorem exists_puts_idleOf {n left : ℕ} (hc : configValid s.cfg = true) (h : s.FrameOpen 0)
    (hn : 7 ≤ n) (hreach : s.asmWr.toNat + n = dfLen s.cfg + left) (hleft : left < dfLen s.cfg) :
    ∃ t f, asmPut (idleOf s.cfg n) s = (t, [f].map frameOf) ∧ Puts s (idleOf s.cfg n) t [f] ∧
      t.asmWr.toNat = left := by
  have hsize : (idleOf s.cfg n).length = n := idleOf_length (by omega)
  obtain ⟨t, fs, hrun, hput⟩ := exists_puts (d := idleOf s.cfg n) hc h (by omega)
  obtain ⟨hcount, hwr⟩ := hput.div_mod hc h
  rw [hsize, hreach, Nat.add_div_left _ (Nat.zero_lt_of_lt hleft), Nat.div_eq_of_lt hleft] at hcount
  rw [hsize, hreach, Nat.add_mod_left, Nat.mod_eq_of_lt hleft] at hwr
  obtain ⟨f, rfl⟩ := List.length_eq_one_iff.1 hcount
  exact ⟨t, f, hrun, hput, hwr⟩

/-! ### the loop -/

/-- What `ASM.FLUSH` does in `s`: it leads to a state and emits frames (45_assembler.md R226). -/
inductive Flushes (s : State) : State → List Bytes → Prop
  | empty (hwr : s.asmWr = 0) : Flushes s s []
  | once {t : State} {f : Bytes} (hwr : s.asmWr ≠ 0) (hfree : 7 ≤ freeBytes s)
      (hput : Puts s (idleOf s.cfg (freeBytes s)) t [f]) : Flushes s t [f]
  | twice {u t : State} {f g : Bytes} (hwr : s.asmWr ≠ 0) (hfree : freeBytes s < 7)
      (hfirst : Puts s (idleOf s.cfg 7) u [f]) (hover : u.asmWr.toNat = 7 - freeBytes s)
      (hsecond : Puts u (idleOf s.cfg (dfLen s.cfg - (7 - freeBytes s))) t [g]) : Flushes s t [f, g]

/-- After `ASM.FLUSH` no byte is placed in the open frame. -/
theorem exists_flushes (hc : configValid s.cfg = true) (h : s.FrameOpen 0) :
    ∃ t fs, asmFlushLoop 2 s = (t, fs.map frameOf) ∧ Flushes s t fs ∧ t.asmWr = 0 := by
  have hmin := (dfLen_bounds hc).1
  have hroom := h.wr_lt
  have hfree : freeBytes s = dfLen s.cfg - s.asmWr.toNat := rfl
  by_cases hwr : s.asmWr = 0
  · exact ⟨s, [], asmFlushLoop_of_empty 2 hwr, .empty hwr, hwr⟩
  obtain hlong | hshort := le_or_gt 7 (freeBytes s)
  · obtain ⟨t, f, hrun, hput, hend⟩ := exists_puts_idleOf (left := 0) hc h hlong (by omega) (by omega)
    have hempty : t.asmWr = 0 := BitVec.eq_of_toNat_eq hend
    rw [← max_eq_left hlong] at hrun
    refine ⟨t, [f], ?_, .once hwr hlong hput, hempty⟩
    rw [asmFlushLoop_of_put hwr hrun, asmFlushLoop_of_empty 1 hempty]
    rfl
  · obtain ⟨u, f, hrun, hfirst, hover⟩ :=
      exists_puts_idleOf (left := 7 - freeBytes s) hc h le_rfl (by omega) (by omega)
    have hcfg := hfirst.cfg_eq
    have hfree' : freeBytes u = dfLen s.cfg - (7 - freeBytes s) := by rw [freeBytes, hcfg, hover]
    have hwr' : u.asmWr ≠ 0 := fun hzero => by
      have : u.asmWr.toNat = 0 := congrArg BitVec.toNat hzero
      omega
    have hlong : 7 ≤ freeBytes u := by omega
    obtain ⟨t, g, hrun', hsecond, hend⟩ := exists_puts_idleOf (left := 0) (hcfg.symm ▸ hc)
      hfirst.frameOpen hlong (by rw [freeBytes, hcfg]; omega) (by rw [hcfg]; omega)
    have hempty : t.asmWr = 0 := BitVec.eq_of_toNat_eq hend
    rw [← max_eq_left hlong] at hrun'
    rw [← max_eq_right hshort.le] at hrun
    rw [hfree', hcfg] at hsecond
    refine ⟨t, [f, g], ?_, .twice hwr hshort hfirst hover hsecond, hempty⟩
    rw [asmFlushLoop_of_put hwr hrun, asmFlushLoop_of_put hwr' hrun', asmFlushLoop_of_empty 0 hempty]
    rfl

end Sys2Proof.Machine
end

section
/-! The frames of `ASM.PUSH` and `ASM.FLUSH` and what `ASM.FLUSH` leaves (45_assembler.md R222, R226,
R229). -/

namespace Sys2Proof.Machine

variable {c : Config} {s t : State} {d f : Bytes} {fs : List Bytes}

/-! ### `ASM.FLUSH` -/

theorem exists_asmAnswers_asmFlush (h : s.Inv) :
    ∃ t fs, Flushes s t fs ∧ t.FrameOpen 0 ∧ t.asmWr = 0 ∧ AsmAnswers .asmFlush s t fs := by
  have hopen := frameOpen_of_inv h
  obtain ⟨t, fs, hrun, hflushes, hwr⟩ := exists_flushes h.params hopen
  have hstate : (asmFlushLoop 2 s).1 = t := congrArg Prod.fst hrun
  refine ⟨t, fs, hflushes, hstate ▸ frameOpen_asmFlushLoop h.params hopen, hwr,
    hstate ▸ asmFlushLoop_frame 2 s, ?_⟩
  have hexec : exec .asmFlush s = complete s (finishEvents
      ((asmFlushLoop 2 s).1.setRes 0 (val (asmFlushLoop 2 s).2.length)) (asmFlushLoop 2 s).2) := rfl
  rw [hexec, hrun, List.length_map]

theorem Flushes.counters (h : Flushes s t fs) :
    t.asmVcfc.toNat = (s.asmVcfc.toNat + fs.length) % 256 ∧
      t.asmMcfc.toNat = (s.asmMcfc.toNat + fs.length) % 256 := by
  cases h with
  | empty => exact ⟨(Nat.mod_eq_of_lt s.asmVcfc.isLt).symm, (Nat.mod_eq_of_lt s.asmMcfc.isLt).symm⟩
  | once _ _ hput => exact ⟨hput.asmVcfc_toNat, hput.asmMcfc_toNat⟩
  | twice _ _ hfirst _ hsecond =>
    have hvirtual := hfirst.asmVcfc_toNat
    have hmaster := hfirst.asmMcfc_toNat
    rw [hsecond.asmVcfc_toNat, hsecond.asmMcfc_toNat]
    simp only [List.length_cons, List.length_nil] at *
    omega

/-- An open frame with no byte placed is the one that `asm_open()` leaves. -/
theorem eq_open_of_asmWr_eq_zero (h : s.FrameOpen 0) (hwr : s.asmWr = 0) :
    s.asmFhp = 0x7FF ∧ s.asmFrame = List.replicate s.cfg.tmFrameSize 0x00 := by
  obtain ⟨-, hpointer, hlength, hzero⟩ := h
  have hnat : s.asmWr.toNat = 0 := congrArg BitVec.toNat hwr
  refine ⟨BitVec.eq_of_toNat_eq (hpointer.resolve_right (by omega)),
    List.eq_replicate_iff.2 ⟨hlength, fun b hb => ?_⟩⟩
  obtain ⟨k, hk, rfl⟩ := List.mem_iff_getElem.1 hb
  rw [← List.getD_eq_getElem _ 0 hk]
  exact hzero k (by omega)

/-- A packet that completes one frame: the bytes placed before and the packet are its data field and the
bytes placed after. -/
theorem Puts.dataField_append (h : Puts s d t [f]) :
    dataField s.cfg f ++ placed t = placed s ++ d := by
  rw [h.placed_append, List.map_singleton, List.flatten_singleton]

theorem Puts.pointerOf_first (h : Puts s d t (f :: fs)) (hc : configValid s.cfg = true)
    (hopen : s.FrameOpen 0) : pointerOf f = startPointer s := by
  have hmax := (dfLen_bounds hc).2
  have hstart := startPointer_lt hopen
  exact (h.finalises (j := 0) rfl).pointerOf_eq (by rw [if_pos rfl]; omega)

/-- Once a frame is complete, the next packet to start is the first in its frame. -/
theorem Puts.startPointer_after (h : Puts s d t (f :: fs)) : startPointer t = t.asmWr.toNat :=
  if_pos (BitVec.eq_of_toNat_eq h.asmFhp_toNat)

/-- The frames of `ASM.FLUSH`, by the room in the open frame. -/
theorem Flushes.frames_eq (h : Flushes s t fs) (hc : configValid s.cfg = true) (hopen : s.FrameOpen 0)
    (hend : t.asmWr = 0) :
    if s.asmWr = 0 then fs = []
    else if 7 ≤ freeBytes s then
      ∃ f, fs = [f] ∧ dataField s.cfg f = placed s ++ idleOf s.cfg (freeBytes s) ∧
        pointerOf f = startPointer s
    else
      ∃ f g, fs = [f, g] ∧
        dataField s.cfg f ++ dataField s.cfg g =
          placed s ++ idleOf s.cfg 7 ++ idleOf s.cfg (dfLen s.cfg - (7 - freeBytes s)) ∧
        pointerOf f = startPointer s ∧ pointerOf g = 7 - freeBytes s := by
  have hplaced : placed t = [] := placed_of_asmWr_eq_zero hend
  cases h with
  | empty hwr => rw [if_pos hwr]
  | @once t f hwr hfree hput =>
    rw [if_neg hwr, if_pos hfree]
    have hbytes := hput.dataField_append
    rw [hplaced, List.append_nil] at hbytes
    exact ⟨f, rfl, hbytes, hput.pointerOf_first hc hopen⟩
  | @twice u t f g hwr hfree hfirst hover hsecond =>
    rw [if_neg hwr, if_neg (Nat.not_le.2 hfree)]
    have hcfg := hfirst.cfg_eq
    have hbytes := hsecond.dataField_append
    rw [hplaced, List.append_nil, hcfg] at hbytes
    refine ⟨f, g, rfl, ?_, hfirst.pointerOf_first hc hopen, ?_⟩
    · rw [hbytes, ← List.append_assoc, hfirst.dataField_append]
    · rw [hsecond.pointerOf_first (hcfg.symm ▸ hc) hfirst.frameOpen, hfirst.startPointer_after, hover]

/-- Settles O55: the loop takes no turn, one or two (`Flushes`); the frames it emits
(`Flushes.frames_eq`), the counters, and the empty frame it leaves (`eq_open_of_asmWr_eq_zero`). -/
theorem asmFlushFills : Obligations.AsmFlushFills := by
  intro s h
  obtain ⟨u, fs, hflushes, hopen, hend, hcompletes⟩ := exists_asmAnswers_asmFlush h
  obtain ⟨t, hexec, hanswers, hres, ⟨-, -, hvcfc, hmcfc, hwr, hfhp, hframe⟩, -, hrest⟩ :=
    hcompletes.completes
  obtain ⟨hvirtual, hmaster⟩ := hflushes.counters
  obtain ⟨hsentinel, hzeros⟩ := eq_open_of_asmWr_eq_zero hopen hend
  have hcfg : u.cfg = s.cfg := by rw [hcompletes.keeps]; rfl
  refine ⟨t, fs, hexec, hanswers, hwr.trans hend, hfhp.trans hsentinel, ?_, hres,
    hflushes.frames_eq h.params (frameOpen_of_inv h) hend, ?_, ?_, hrest⟩
  · rw [hframe, hzeros, hcfg]
  · rw [hvcfc, hvirtual]
  · rw [hmcfc, hmaster]

/-! ### every frame emitted -/

/-- The frames are finalised by `s` one after another, each with a pointer that the frame check allows and
that is not the idle pattern. -/
def EmitsFinalised (s : State) (fs : List Bytes) : Prop :=
  ∀ {j : ℕ} {f : Bytes}, fs[j]? = some f →
    ∃ p, (p = 0x7FF ∨ p < dfLen s.cfg) ∧ s.Finalises j p f

theorem emitsFinalised_nil (s : State) : EmitsFinalised s [] := fun hf => absurd hf (by simp)

theorem Puts.emitsFinalised (h : Puts s d t fs) (hopen : s.FrameOpen 0) : EmitsFinalised s fs := by
  intro j f hf
  refine ⟨_, ?_, h.finalises hf⟩
  split
  · exact .inr (startPointer_lt hopen)
  · exact .inl rfl

theorem Flushes.emitsFinalised (h : Flushes s t fs) (hopen : s.FrameOpen 0) : EmitsFinalised s fs := by
  cases h with
  | empty => exact emitsFinalised_nil s
  | once _ _ hput => exact hput.emitsFinalised hopen
  | @twice u t f g _ _ hfirst _ hsecond =>
    intro j f' hf'
    match j, hf' with
    | 0, hf' => exact hfirst.emitsFinalised hopen hf'
    | 1, hf' =>
      obtain ⟨p, hp, hfinal⟩ := hsecond.emitsFinalised hfirst.frameOpen (j := 0) hf'
      have hkeeps := hfirst.keeps
      have hscid : u.asmScid = s.asmScid := by rw [hkeeps]; rfl
      have hvcid : u.asmVcid = s.asmVcid := by rw [hkeeps]; rfl
      rw [hfirst.cfg_eq] at hp
      exact ⟨p, hp, hfinal.of_later hfirst.cfg_eq hscid hvcid hfirst.asmMcfc_toNat
        hfirst.asmVcfc_toNat⟩

/-- A frame finalised with such a pointer passes the frame check. -/
theorem FrameFinal.frameGood {ids mc vc p : ℕ} (h : FrameFinal c ids mc vc p f)
    (hc : configValid c = true) (hp : p = 0x7FF ∨ p < dfLen c) :
    pointerOf f = p ∧ pointerOf f ≠ 0x7FE ∧ FrameGood c f := by
  have hmax := (dfLen_bounds hc).2
  have hpointer : pointerOf f = p := h.pointerOf_eq (by omega)
  exact ⟨hpointer, by omega, h.length, h.crc, by omega⟩

/-- The events of `ASM.PUSH` and `ASM.FLUSH`: none after a fault, else the frames emitted. -/
theorem exists_emitsFinalised {i : Instr} {r : Response} (h : s.Inv)
    (hi : i = .asmFlush ∨ ∃ bs, i = .asmPush bs) (hexec : exec i s = .next t)
    (hresponse : t.response = some r) :
    ∃ fs, r.events = fs.map frameOf ∧ EmitsFinalised s fs := by
  have hopen := frameOpen_of_inv h
  have hnone {st : Status} {reason : Reason} {aux : ℕ} (hfault : Faults i s st reason aux) :
      ∃ fs, r.events = fs.map frameOf ∧ EmitsFinalised s fs := by
    rw [Faults, hexec] at hfault
    cases hfault
    cases hresponse
    exact ⟨[], rfl, emitsFinalised_nil s⟩
  obtain rfl | ⟨bs, rfl⟩ := hi
  · obtain ⟨u, fs, hflushes, -, -, hanswers⟩ := exists_asmAnswers_asmFlush h
    exact ⟨fs, hanswers.events_eq hexec hresponse, hflushes.emitsFinalised hopen⟩
  · obtain hbs | hbs := Nat.lt_or_ge bs.toNat s.cfg.nbuf
    · by_cases hpacket : IsPacket (s.buf bs)
      · obtain ⟨u, fs, hput, hanswers⟩ := exists_asmAnswers_asmPush h hbs hpacket
        exact ⟨fs, hanswers.events_eq hexec hresponse, hput.emitsFinalised hopen⟩
      · exact hnone (faults_asmPush_of_not_isPacket hbs hpacket)
    · exact hnone (needsBuf_of_operand rfl hbs)

/-- Settles O54: every event is a frame that the Assembler finalised (`exists_emitsFinalised`), and such a
frame passes the frame check (`FrameFinal.frameGood`). -/
theorem asmFramesFinalised : Obligations.AsmFramesFinalised := by
  intro s t i r h hi hexec hresponse j e he
  obtain ⟨fs, hevents, hemits⟩ := exists_emitsFinalised h hi hexec hresponse
  rw [hevents, List.getElem?_map, Option.map_eq_some_iff] at he
  obtain ⟨f, hf, rfl⟩ := he
  obtain ⟨p, hp, hfinal⟩ := hemits hf
  obtain ⟨hpointer, hidle, hgood⟩ := hfinal.frameGood h.params hp
  exact ⟨f, rfl, hfinal.length, hfinal.ids, hfinal.master, hfinal.virtual,
    hpointer.symm ▸ hfinal.pointer, hfinal.crc, hidle, hgood⟩

end Sys2Proof.Machine
end

section
/-! The three steps of `PKT.PUSH` (46_packetizer.md R236 to R239): each is what `delivered`, `afterLead` and
the trailing fragment say of the carry, the events and the status bits. -/

namespace Sys2Proof.Machine

variable {s t : State} {q carry lead : Bytes}

/-! ### packets delivered -/

/-- The host wants idle packets dropped (`PKT_CTRL.DROP_IDLE`, 10_state.md R37). -/
def dropsIdle (s : State) : Bool := decide (s.pktCtrl = 1)

theorem isIdle_iff_packetOf_info (q : Bytes) : isIdle q = true ↔ (packetOf q).info = 1 := by
  rw [← packetEvent_eq_packetOf, packetEvent]
  split_ifs with hidle
  · exact iff_of_true hidle rfl
  · exact iff_of_false hidle (by simp)

theorem deliver_eq_delivered (s : State) (q : Bytes) : deliver s q = delivered (dropsIdle s) q := by
  simp only [deliver, delivered, dropsIdle, isIdle_iff_packetOf_info, packetEvent_eq_packetOf,
    decide_eq_true_iff, and_comm]

/-! ### the target -/

/-- The target is valid from 7 bytes on, and then it is the size that the carry declares. -/
theorem State.CarryOk.carries (h : s.CarryOk) : Carries s s.pktCarry := by
  obtain ⟨-, hvalid, htarget⟩ := h
  refine ⟨rfl, hvalid, ?_⟩
  rw [htarget, minPkt]
  split_ifs with hlength
  · rw [toNat_ofNat_declaredSize, declaredSize_eq_sizeDeclared (by omega)]
  · rfl

theorem incomplete_iff : Incomplete q ↔ q.length < 7 ∨ q.length < sizeDeclared q := by
  refine ⟨Incomplete.length_lt, fun h hlength => ?_⟩
  have hlong : 7 ≤ q.length := hlength
  rw [declaredSize_eq_sizeDeclared (by omega)]
  omega

/-- The comparison of a carry with its target, once `pkt_parse_target()` has run. -/
theorem setCarry_target_iff (r : ℕ → ℕ → Prop) (b : Bytes) (s : State) :
    ((setCarry b s).pktTargetValid = true ∧
        r (setCarry b s).pktCarry.length (setCarry b s).pktTarget.toNat) ↔
      7 ≤ b.length ∧ r b.length (sizeDeclared b) := by
  rw [setCarry_pktTargetValid, decide_eq_true_iff, setCarry_pktCarry, setCarry_pktTarget, minPkt]
  refine and_congr_right fun hlength => ?_
  rw [if_pos hlength, toNat_ofNat_declaredSize, declaredSize_eq_sizeDeclared (by omega)]

/-! ### the leading fragment -/

/-- The status bit of a leading fragment that comes in with nothing in flight (46_packetizer.md R239). -/
def orphanOf (carry lead : Bytes) : BitVec 3 :=
  if lead = [] then 0 else if carry = [] then 0b001 else 0

/-- The carry, the events and the status bits that `r` leaves once `lead` has come in are those of `a`, with
the `ORPHAN` bit beside them. -/
structure LeadResult (s : State) (lead : Bytes) (a : Bytes × List Event × BitVec 3)
    (r : State × List Event) : Prop where
  carry : r.1.pktCarry = a.1
  events : r.2 = a.2.1
  status : r.1.pktStatus = s.pktStatus ||| orphanOf s.pktCarry lead ||| a.2.2

section
variable {cls : ℕ} {starts : Bool} (hstarts : starts = true ↔ cls = 0) (s : State)
include hstarts

theorem leadResult_pktLead_nil :
    LeadResult s [] (afterLead (dropsIdle s) starts s.pktCarry []) (pktLead cls [] s) := by
  have horphan : orphanOf s.pktCarry [] = 0 := if_pos rfl
  rw [pktLead, if_pos rfl, afterLead, if_pos rfl]
  simp only [hstarts]
  split_ifs
  · exact ⟨rfl, rfl, by simp [horphan, discardCarry, discardBit, truncatedBit]⟩
  · exact ⟨rfl, rfl, by simp [horphan]⟩

theorem leadResult_pktLead_of_ne_nil (hlead : lead ≠ []) :
    LeadResult s lead (afterLead (dropsIdle s) starts s.pktCarry lead) (pktLead cls lead s) := by
  rw [pktLead, if_neg hlead, afterLead, if_neg hlead]
  simp only [hstarts]
  generalize hu : (if s.pktCarry = [] then setPktStatus orphanBit s else s) = u
  have hstatus : u.pktStatus = s.pktStatus ||| orphanOf s.pktCarry lead := by
    rw [← hu, orphanOf, if_neg hlead]
    split_ifs
    · rfl
    · exact (BitVec.or_zero).symm
  have hdrop : dropsIdle u = dropsIdle s := by
    rw [← hu]
    split_ifs <;> rfl
  have hdeliver := deliver_eq_delivered (setCarry (s.pktCarry ++ lead) u) (s.pktCarry ++ lead)
  rw [dropsIdle, setCarry_pktCtrl, ← dropsIdle, hdrop] at hdeliver
  simp only [setCarry_target_iff (· = ·), setCarry_target_iff fun n target => target < n]
  split_ifs
  · refine ⟨setCarry_pktCarry _ _, ?_, ?_⟩
    · rw [setCarry_pktCarry]
      exact hdeliver
    · simp [hstatus]
  all_goals refine ⟨by simp [discardCarry], by simp [discardCarry, discardOf, discardCode], ?_⟩
  · simp [discardCarry, hstatus, discardBit, overrunBit]
  · simp [discardCarry, hstatus, discardBit, truncatedBit]
  · simp [hstatus]

/-- Step 1 of `PKT.PUSH` is `afterLead`, and the `ORPHAN` bit. -/
theorem leadResult_pktLead (lead : Bytes) :
    LeadResult s lead (afterLead (dropsIdle s) starts s.pktCarry lead) (pktLead cls lead s) := by
  by_cases hlead : lead = []
  · subst hlead
    exact leadResult_pktLead_nil hstarts s
  · exact leadResult_pktLead_of_ne_nil hstarts s hlead

end

/-- Nothing stays in flight where a packet starts in the frame (46_packetizer.md R241). -/
theorem afterLead_starts (drop : Bool) (carry lead : Bytes) : (afterLead drop true carry lead).1 = [] := by
  unfold afterLead
  split_ifs with hlead hcarry
  · rfl
  · simpa using hcarry
  · rfl
  · rfl
  · rfl
  · contradiction

/-! ### all three steps -/

theorem pktTrail_pktCarry {trail : Bytes} (h : s.pktCarry = []) : (pktTrail trail s).pktCarry = trail := by
  unfold pktTrail
  split_ifs with htrail
  · rw [h, htrail]
  · exact setCarry_pktCarry _ _

theorem pktTrail_pktStatus (trail : Bytes) (s : State) : (pktTrail trail s).pktStatus = s.pktStatus := by
  unfold pktTrail
  split_ifs
  · rfl
  · exact setCarry_pktStatus _ _

theorem flatMap_deliver (packets : List Bytes) (s : State) :
    packets.flatMap (deliver s) = packets.flatMap (delivered (dropsIdle s)) := by
  rw [funext (deliver_eq_delivered s)]

/-- A frame in which no packet starts: its data field is a leading fragment. -/
theorem leadResult_pktAccept_noFirst (lead : Bytes) (s : State) :
    LeadResult s lead (afterLead (dropsIdle s) false s.pktCarry lead)
      (pktAccept 1 { lead := lead, packets := [], trail := [] } s) := by
  obtain ⟨hcarry, hevents, hstatus⟩ := leadResult_pktLead (starts := false) (cls := 1) (by decide) s lead
  exact ⟨hcarry, (List.append_nil _).trans hevents, hstatus⟩

/-- A frame in which a packet starts: after the leading fragment, the packets are delivered and the trail
becomes the carry. -/
theorem leadResult_pktAccept_pointer (parts : Parts) (s : State) :
    LeadResult s parts.lead
      (parts.trail,
        (afterLead (dropsIdle s) true s.pktCarry parts.lead).2.1 ++
          parts.packets.flatMap (delivered (dropsIdle s)),
        (afterLead (dropsIdle s) true s.pktCarry parts.lead).2.2)
      (pktAccept 0 parts s) := by
  obtain ⟨hcarry, hevents, hstatus⟩ :=
    leadResult_pktLead (starts := true) (cls := 0) (by decide) s parts.lead
  refine ⟨pktTrail_pktCarry (hcarry.trans (afterLead_starts _ _ _)), ?_,
    (pktTrail_pktStatus _ _).trans hstatus⟩
  rw [← flatMap_deliver, ← hevents]
  rfl

end Sys2Proof.Machine
end

section
/-! How a command of the PKT family completes, and `PKT.CLEAR` and `PKT.PUSH` (46_packetizer.md R239,
R240). -/

namespace Sys2Proof.Machine

variable {i : Instr} {s t u : State} {bs : BufIx} {vs : List Value} {e : List Event}

/-! ### completion with the Packetizer's events -/

/-- `i` ends with `OK` in `s`, with the Packetizer as in `u`, the results `vs` and the events `e`. -/
structure PktAnswers (i : Instr) (s u : State) (vs : List Value) (e : List Event) : Prop where
  keeps : u = withPktOf s u
  exec_eq : exec i s = complete s (finishEvents (u.setResFrom 0 vs) e)

theorem PktAnswers.completes (h : PktAnswers i s u vs e) :
    ∃ t, exec i s = .next t ∧ Answers t [] e ∧
      (∀ j : Fin 16, j.val < vs.length → t.res[j] = vs.getD j.val 0) ∧ SamePkt u t ∧
      SameMem s t ∧ SameResFrom vs.length s t ∧ t.bchSr = s.bchSr ∧ SameAsm s t ∧ SameRest s t ∧
      t.pktCtrl = s.pktCtrl := by
  obtain ⟨hkeeps, hexec⟩ := h
  have hframe := setResFrom_frame u 0 vs
  have hres : u.res = s.res := by rw [hkeeps]; rfl
  refine ⟨_, hexec, rfl, setResFrom_res_of_lt u vs, ?_, ?_, fun j hj => ?_, ?_⟩
  · rw [hframe]
    exact samePkt_refl u
  · rw [hframe, hkeeps]
    exact fun _ _ => rfl
  · exact (setResFrom_res_of_le u vs j hj).trans (by rw [hres])
  · rw [hframe, hkeeps]
    exact ⟨rfl, sameAsm_refl s, ⟨rfl, rfl, rfl⟩, rfl⟩

/-- What a command leaves in flight has its target (10_state.md R44 (d) to (f)). -/
theorem carries_of_exec {carry : Bytes} (h : s.Inv) (hexec : exec i s = .next t)
    (hcarry : t.pktCarry = carry) : Carries t carry :=
  hcarry ▸ (carryOk_of_inv (exec_inv h hexec)).carries

/-! ### `PKT.CLEAR` -/

/-- `PKT.CLEAR` discards what is in flight, if anything is. -/
theorem exists_pktAnswers_pktClear (s : State) :
    ∃ u, PktAnswers .pktClear s u [val s.pktCarry.length]
        (if s.pktCarry = [] then [] else [discardOf 3 s.pktCarry]) ∧
      u.pktCarry = [] ∧ u.pktStatus = s.pktStatus ||| (if s.pktCarry = [] then 0 else 0b010) := by
  have hexec : exec .pktClear s = _ := execPktClear_eq s
  split_ifs at hexec ⊢ with hcarry
  · exact ⟨s, ⟨rfl, by rw [hexec, hcarry]; rfl⟩, hcarry, (BitVec.or_zero).symm⟩
  · exact ⟨(discardCarry .cleared s).1, ⟨rfl, hexec⟩, rfl, rfl⟩

/-- Settles O59: `PKT.CLEAR` discards the carry, if there is one (`exists_pktAnswers_pktClear`), and leaves
the rest alone (`PktAnswers.completes`). -/
theorem pktClearDiscards : Obligations.PktClearDiscards := by
  intro s h
  obtain ⟨u, hclear, hempty, hbits⟩ := exists_pktAnswers_pktClear s
  obtain ⟨t, hexec, hanswers, hres, ⟨hcarry, -, -, hstatus, -⟩, hmem, hkept, hbch, hasm, hrest, hctrl⟩ :=
    hclear.completes
  exact ⟨t, hexec, carries_of_exec h hexec (hcarry.trans hempty), hctrl, hstatus.trans hbits, hanswers,
    hres 0 Nat.one_pos, hmem, hkept, hbch, hasm, hrest⟩

/-! ### `PKT.PUSH` -/

/-- `PKT.PUSH` of a frame that passes the check is `pktAccept` of its parts. -/
theorem pktAnswers_pktPush {p : ℕ} (h : s.Inv) (hbs : bs.toNat < s.cfg.nbuf)
    (hgood : FrameGood s.cfg (s.buf bs)) (hp : pointerOf (s.buf bs) = p) :
    PktAnswers (.pktPush bs) s (pktAccept (fhpClass p) (tmSplit s.cfg (s.buf bs) p) s).1
      [val (pktAccept (fhpClass p) (tmSplit s.cfg (s.buf bs) p) s).2.length, val (fhpClass p)]
      (pktAccept (fhpClass p) (tmSplit s.cfg (s.buf bs) p) s).2 := by
  have hcheck := hgood.frameCheck_eq (two_le_frame_length h.params hgood.1)
  exact ⟨pktAccept_frame _ _ _, exec_pktPush_of_ok hbs (hp ▸ hcheck)⟩

/-- `PKT.PUSH` completes with these events and this class of the pointer, and changes nothing else but the
carry, its target and the status bits. -/
structure Pushes (s : State) (bs : BufIx) (t : State) (e : List Event) (cls : ℕ) : Prop where
  exec_eq : exec (.pktPush bs) s = .next t
  answers : Answers t [] e
  count : t.res[0] = BitVec.ofNat 64 e.length
  cls_eq : t.res[1].toNat = cls
  mem : SameMem s t
  res : SameResFrom 2 s t
  bch : t.bchSr = s.bchSr
  asm : SameAsm s t
  rest : SameRest s t
  ctrl : t.pktCtrl = s.pktCtrl

theorem exists_pushes {p : ℕ} (h : s.Inv) (hbs : bs.toNat < s.cfg.nbuf)
    (hgood : FrameGood s.cfg (s.buf bs)) (hp : pointerOf (s.buf bs) = p) :
    ∃ t, Pushes s bs t (pktAccept (fhpClass p) (tmSplit s.cfg (s.buf bs) p) s).2 (fhpClass p) ∧
      SamePkt (pktAccept (fhpClass p) (tmSplit s.cfg (s.buf bs) p) s).1 t := by
  obtain ⟨t, hexec, hanswers, hres, hpkt, hmem, hres', hbch, hasm, hrest, hctrl⟩ :=
    (pktAnswers_pktPush h hbs hgood hp).completes
  have hcls : t.res[1] = val (fhpClass p) := hres 1 Nat.one_lt_two
  exact ⟨t, ⟨hexec, hanswers, hres 0 Nat.two_pos, by rw [hcls, val_toNat (fhpClass_lt p)], hmem, hres',
    hbch, hasm, hrest, hctrl⟩, hpkt⟩

/-- A frame without a packet start extends the packet in flight by its whole data field. -/
theorem exists_pushes_noFirst (h : s.Inv) (hbs : bs.toNat < s.cfg.nbuf)
    (hgood : FrameGood s.cfg (s.buf bs)) (hp : pointerOf (s.buf bs) = 0x7FF) :
    let a := afterLead (dropsIdle s) false s.pktCarry (dataField s.cfg (s.buf bs))
    ∃ t, Pushes s bs t a.2.1 1 ∧ Carries t a.1 ∧
      t.pktStatus = s.pktStatus ||| (if s.pktCarry = [] then 0b001 else 0) ||| a.2.2 := by
  obtain ⟨t, hpushes, hcarry', -, -, hstatus', -⟩ := exists_pushes h hbs hgood hp
  have hclass : fhpClass 0x7FF = 1 := rfl
  rw [hclass, tmSplit_noFirst] at hpushes hcarry' hstatus'
  obtain ⟨hcarry, hevents, hstatus⟩ :=
    leadResult_pktAccept_noFirst (dataField s.cfg (s.buf bs)) s
  rw [hevents] at hpushes
  rw [orphanOf, if_neg (dataField_ne_nil h.params hgood.1)] at hstatus
  exact ⟨t, hpushes, carries_of_exec h hpushes.exec_eq (hcarry'.trans hcarry), hstatus'.trans hstatus⟩

theorem exists_pushes_idle (h : s.Inv) (hbs : bs.toNat < s.cfg.nbuf)
    (hgood : FrameGood s.cfg (s.buf bs)) (hp : pointerOf (s.buf bs) = 0x7FE) :
    ∃ t, Pushes s bs t [] 2 ∧ SamePkt s t := exists_pushes h hbs hgood hp

/-- A frame in which a packet starts: the lead, the packets, and a trail that is no packet yet. -/
theorem exists_pushes_pointer {p : ℕ} (h : s.Inv) (hbs : bs.toNat < s.cfg.nbuf)
    (hgood : FrameGood s.cfg (s.buf bs)) (hp : pointerOf (s.buf bs) = p) (hfirst : p ≠ 0x7FF)
    (hidle : p ≠ 0x7FE) :
    let a := afterLead (dropsIdle s) true s.pktCarry ((dataField s.cfg (s.buf bs)).take p)
    ∃ (t : State) (packets : List Bytes) (trail : Bytes),
      dataField s.cfg (s.buf bs) =
        (dataField s.cfg (s.buf bs)).take p ++ packets.flatten ++ trail ∧
      (∀ q ∈ packets, IsPacket q) ∧ Incomplete trail ∧
      Pushes s bs t (a.2.1 ++ packets.flatMap (delivered (dropsIdle s))) 0 ∧ Carries t trail ∧
      t.pktStatus =
        s.pktStatus ||| (if p = 0 then 0 else if s.pktCarry = [] then 0b001 else 0) ||| a.2.2 := by
  have hclass : fhpClass p = 0 := (fhpClass_eq_zero_iff p).2 ⟨hfirst, hidle⟩
  obtain ⟨t, hpushes, hcarry', -, -, hstatus', -⟩ := exists_pushes h hbs hgood hp
  have htrail := incomplete_tmSplit_trail s.cfg (s.buf bs) p
  obtain ⟨hlead, hrest, hpackets⟩ := tmSplit_pointer s.cfg (s.buf bs) hclass
  generalize tmSplit s.cfg (s.buf bs) p = parts at *
  rw [hclass] at hpushes hcarry' hstatus'
  obtain ⟨hcarry, hevents, hstatus⟩ := leadResult_pktAccept_pointer parts s
  rw [hlead] at hevents hstatus
  rw [hevents] at hpushes
  refine ⟨t, parts.packets, parts.trail, ?_, hpackets, htrail, hpushes,
    carries_of_exec h hpushes.exec_eq (hcarry'.trans hcarry), hstatus'.trans (hstatus.trans ?_)⟩
  · rw [List.append_assoc, hrest, List.take_append_drop]
  · have hne := dataField_ne_nil h.params hgood.1
    simp only [orphanOf, List.take_eq_nil_iff, hne, or_false]

/-- Settles O57: a frame that fails the check faults (`frameGood_or_frameCheck_error`); one that passes does
what the class of its pointer says (`exists_pushes_noFirst`, `exists_pushes_idle`,
`exists_pushes_pointer`). -/
theorem pktPushReassembles : Obligations.PktPushReassembles := by
  intro s bs h
  refine ⟨needsBuf_of_operand rfl, fun hbs hbad => ?_, fun hbs hgood => ?_⟩
  · obtain hgood | ⟨r, a, hreason, hcheck⟩ := frameGood_or_frameCheck_error h.params (s.buf bs)
    · exact absurd hgood hbad
    · exact ⟨r, a, hreason,
        faults_of_frameCheck_error (by simp) hbs hcheck rfl hreason.statusOf_ne_ok⟩
  intro p d drop orphan
  by_cases hfirst : p = 0x7FF
  · obtain ⟨t, hpushes, hcarries, hstatus⟩ := exists_pushes_noFirst h hbs hgood hfirst
    refine ⟨t, _, hpushes.exec_eq, hpushes.answers, hpushes.count, ?_, hpushes.mem, hpushes.res,
      hpushes.bch, hpushes.asm, hpushes.rest, hpushes.ctrl,
      fun hidle => absurd (hfirst.symm.trans hidle) (by decide),
      fun _ => ⟨hcarries, rfl, hstatus⟩, fun hne => absurd hfirst hne⟩
    rw [if_pos hfirst, hpushes.cls_eq]
  by_cases hidle : p = 0x7FE
  · obtain ⟨t, hpushes, hpkt⟩ := exists_pushes_idle h hbs hgood hidle
    refine ⟨t, _, hpushes.exec_eq, hpushes.answers, hpushes.count, ?_, hpushes.mem, hpushes.res,
      hpushes.bch, hpushes.asm, hpushes.rest, hpushes.ctrl, fun _ => ⟨rfl, hpkt⟩,
      fun hfirst' => absurd hfirst' hfirst, fun _ hne => absurd hidle hne⟩
    rw [if_neg hfirst, if_pos hidle, hpushes.cls_eq]
  · obtain ⟨t, packets, trail, hfield, hpackets, htrail, hpushes, hcarries, hstatus⟩ :=
      exists_pushes_pointer h hbs hgood rfl hfirst hidle
    refine ⟨t, _, hpushes.exec_eq, hpushes.answers, hpushes.count, ?_, hpushes.mem, hpushes.res,
      hpushes.bch, hpushes.asm, hpushes.rest, hpushes.ctrl, fun hidle' => absurd hidle' hidle,
      fun hfirst' => absurd hfirst' hfirst, fun _ _ => ⟨packets, trail, hfield, hpackets,
        htrail.length_lt, afterLead_starts _ _ _, hcarries, rfl, hstatus⟩⟩
    rw [if_neg hfirst, if_neg hidle, hpushes.cls_eq]

end Sys2Proof.Machine
end

section
/-! Packets one after another (46_packetizer.md R241): bytes are in one way only a run of packets followed by
the beginning of one; and what a leading fragment does that continues the packet in flight as it should. -/

namespace Sys2Proof.Machine

variable {c : Config} {q carry lead rest : Bytes}

/-! ### a packet and what follows it -/

/-- A packet declares its size in its first six bytes. -/
theorem sizeDeclared_append (hlength : 6 ≤ q.length) (rest : Bytes) :
    sizeDeclared (q ++ rest) = sizeDeclared q := by
  rw [sizeDeclared, sizeDeclared, List.getD_append _ _ _ _ (by omega),
    List.getD_append _ _ _ _ (by omega)]

theorem IsPacket.length_eq_sizeDeclared_append (h : IsPacket q) (rest : Bytes) :
    q.length = sizeDeclared (q ++ rest) := by
  obtain ⟨hlength, hsize⟩ := h
  rw [sizeDeclared_append (by omega)]
  exact hsize

theorem IsPacket.not_incomplete_append (h : IsPacket q) (rest : Bytes) : ¬ Incomplete (q ++ rest) := by
  have hsize := h.length_eq_sizeDeclared_append rest
  obtain ⟨hlength, -⟩ := h
  rw [incomplete_iff, ← hsize, List.length_append]
  omega

theorem IsPacket.ne_nil (h : IsPacket q) : q ≠ [] :=
  List.ne_nil_of_length_pos (Nat.zero_lt_of_lt h.1)

/-- The beginning of a packet does not hold the packet. -/
theorem IsPacket.incomplete_of_append (h : IsPacket (q ++ rest)) (hrest : rest ≠ []) : Incomplete q := by
  rw [incomplete_iff]
  obtain hshort | hlong := Nat.lt_or_ge q.length 7
  · exact .inl hshort
  · have hmore := List.length_pos_of_ne_nil hrest
    have hsize := h.2
    rw [← sizeDeclared, sizeDeclared_append (by omega), List.length_append] at hsize
    exact .inr (by omega)

/-- Packets and the beginning of one are told by their bytes: each packet says where it ends. -/
theorem packets_append_inj {ps qs : List Bytes} {a b : Bytes} (hps : ∀ q ∈ ps, IsPacket q)
    (hqs : ∀ q ∈ qs, IsPacket q) (ha : Incomplete a) (hb : Incomplete b)
    (h : ps.flatten ++ a = qs.flatten ++ b) : ps = qs ∧ a = b := by
  induction ps generalizing qs with
  | nil =>
    cases qs with
    | nil => exact ⟨rfl, h⟩
    | cons q qs =>
      rw [List.flatten_nil, List.nil_append, List.flatten_cons, List.append_assoc] at h
      exact absurd (h ▸ ha) ((hqs q List.mem_cons_self).not_incomplete_append _)
  | cons p ps ih =>
    rw [List.forall_mem_cons] at hps
    obtain ⟨hp, hps⟩ := hps
    rw [List.flatten_cons, List.append_assoc] at h
    cases qs with
    | nil =>
      rw [List.flatten_nil, List.nil_append] at h
      exact absurd (h ▸ hb) (hp.not_incomplete_append _)
    | cons q qs =>
      rw [List.forall_mem_cons] at hqs
      obtain ⟨hq, hqs⟩ := hqs
      rw [List.flatten_cons, List.append_assoc] at h
      have hlength : p.length = q.length := by
        rw [hp.length_eq_sizeDeclared_append, h, ← hq.length_eq_sizeDeclared_append]
      obtain ⟨rfl, hrest⟩ := List.append_inj h hlength
      obtain ⟨rfl, rfl⟩ := ih hps hqs hrest
      exact ⟨rfl, rfl⟩

/-! ### idle packets -/

theorem isPacket_idleOf {n : ℕ} (hmin : 7 ≤ n) (hmax : n ≤ 65542) : IsPacket (idleOf c n) := by
  have hlength : (idleOf c n).length = n := idleOf_length (by omega)
  have hhigh : ((idleOf c n).getD 4 0).toNat = (n - 7) / 256 :=
    (BitVec.toNat_ofNat _ _).trans (Nat.mod_eq_of_lt (by omega))
  have hlow : ((idleOf c n).getD 5 0).toNat = (n - 7) % 256 :=
    (BitVec.toNat_ofNat _ _).trans (Nat.mod_eq_of_lt (by omega))
  refine ⟨by omega, ?_⟩
  rw [hlength, hhigh, hlow]
  omega

theorem packetOf_idleOf_info (c : Config) (n : ℕ) : (packetOf (idleOf c n)).info = 1 := by
  simp [packetOf, idleOf]

/-! ### the packet in flight -/

/-- With the bytes `lead` the packet in flight is complete: `head` holds it; or none is in flight and `lead`
is empty. -/
def Completes (carry lead : Bytes) (head : List Bytes) : Prop :=
  (carry = [] ∧ lead = [] ∧ head = []) ∨
    (carry ≠ [] ∧ lead ≠ [] ∧ head = [carry ++ lead] ∧ IsPacket (carry ++ lead))

theorem Completes.nil_of_lead {head : List Bytes} (h : Completes carry [] head) :
    carry = [] ∧ head = [] := by
  obtain ⟨hcarry, -, hhead⟩ | ⟨-, hlead, -⟩ := h
  · exact ⟨hcarry, hhead⟩
  · exact absurd rfl hlead

/-- The bytes that follow the beginning `carry` of a packet complete it. -/
theorem IsPacket.completes (h : IsPacket (carry ++ rest)) (hcarry : carry ≠ []) (hrest : rest ≠ []) :
    Completes carry rest [carry ++ rest] := .inr ⟨hcarry, hrest, rfl, h⟩

theorem afterLead_of_isPacket (drop starts : Bool) (hlead : lead ≠ []) (h : IsPacket (carry ++ lead)) :
    afterLead drop starts carry lead = ([], delivered drop (carry ++ lead), 0) := by
  rw [afterLead, if_neg hlead, if_pos (show 7 ≤ _ ∧ _ = sizeDeclared _ from h)]

theorem afterLead_of_incomplete (drop : Bool) (hlead : lead ≠ []) (h : Incomplete (carry ++ lead)) :
    afterLead drop false carry lead = (carry ++ lead, [], 0) := by
  rw [incomplete_iff] at h
  rw [afterLead, if_neg hlead, if_neg (by omega), if_neg (by omega), if_neg Bool.false_ne_true]

/-- The lead that completes the packet in flight delivers it, and sets no status bit. -/
theorem Completes.afterLead_eq {head : List Bytes} (h : Completes carry lead head) (drop starts : Bool) :
    afterLead drop starts carry lead = ([], head.flatMap (delivered drop), 0) := by
  obtain ⟨rfl, rfl, rfl⟩ | ⟨-, hlead, rfl, hpacket⟩ := h
  · rw [afterLead, if_pos rfl, if_neg fun h => h.2 rfl, List.flatMap_nil]
  · rw [afterLead_of_isPacket _ _ hlead hpacket, List.flatMap_singleton]

end Sys2Proof.Machine
end

section
/-! Byte sequences fed to a command one after another, each loaded into `B[0]` first. -/

namespace Sys2Proof.Machine

variable {i : Instr} {s t u : State} {q : Bytes} {e : List Event}

/-! ### one after another -/

theorem eventsOf_of_answers {payload : Bytes} (h : Answers t payload e) : eventsOf t = e := by
  rw [Answers] at h
  simp only [eventsOf, h]

theorem feed_cons (i : Instr) (s : State) (q : Bytes) (qs : List Bytes) :
    feed i s (q :: qs) = (okNext (exec (.buLoad 0 q) s)).bind fun t =>
      (okNext (exec i t)).bind fun u => (feed i u qs).map fun r => (r.1, eventsOf u ++ r.2) := by
  rw [feed]
  cases okNext (exec (.buLoad 0 q) s) with
  | none => rfl
  | some t =>
    simp only [Option.bind_some]
    cases okNext (exec i t) with
    | none => rfl
    | some u =>
      simp only [Option.bind_some]
      cases feed i u qs <;> rfl

theorem feed_append {qs rs : List Bytes} {e' : List Event} (hfirst : feed i s qs = some (t, e))
    (hsecond : feed i t rs = some (u, e')) : feed i s (qs ++ rs) = some (u, e ++ e') := by
  induction qs generalizing s e with
  | nil =>
    cases hfirst
    exact hsecond
  | cons q qs ih =>
    simp only [feed_cons, Option.bind_eq_some_iff, Option.map_eq_some_iff] at hfirst
    obtain ⟨loaded, hload, next, hrun, ⟨t', e''⟩, hrest, heq⟩ := hfirst
    cases heq
    simp only [List.cons_append, feed_cons, hload, hrun, ih hrest, Option.bind_some, Option.map_some,
      List.append_assoc]

/-! ### loading -/

theorem nbuf_pos {c : Config} (hc : configValid c = true) : 0 < c.nbuf := by
  simp only [configValid, Bool.and_eq_true, decide_eq_true_eq] at hc
  omega

theorem tmFrameSize_le_bufCap {c : Config} (hc : configValid c = true) : c.tmFrameSize ≤ c.bufCap := by
  simp only [configValid, Bool.and_eq_true, decide_eq_true_eq] at hc
  omega

/-- `BU.LOAD` takes `s` to `t`, with `q` in `B[0]`. -/
structure Loads (s : State) (q : Bytes) (t : State) : Prop where
  exec_eq : exec (.buLoad 0 q) s = .next t
  answers : Answers t [] []
  inv : t.Inv
  buf_eq : t.buf 0 = q
  units : SameUnits s t

theorem exists_loads (h : s.Inv) (hcap : q.length ≤ s.cfg.bufCap) : ∃ t, Loads s q t := by
  obtain ⟨t, hexec, hbuf, -, -, -, hunits, hanswers⟩ :=
    (replacesBuf_buLoad s 0 q).completes (nbuf_pos h.params) hcap
  exact ⟨t, hexec, hanswers, exec_inv h hexec, hbuf, hunits⟩

theorem Loads.cfg_eq (h : Loads s q t) : t.cfg = s.cfg := h.units.cfg_eq

theorem Loads.nbuf_pos (h : Loads s q t) : (0 : BufIx).toNat < t.cfg.nbuf :=
  Machine.nbuf_pos h.inv.params

theorem Loads.feed_eq (h : Loads s q t) (hexec : exec i t = .next u) (hanswers : Answers u [] e) :
    feed i s [q] = some (u, e) := by
  simp only [feed, h.exec_eq, okNext_of_answers h.answers, hexec, okNext_of_answers hanswers,
    eventsOf_of_answers hanswers, List.append_nil]

end Sys2Proof.Machine
end

section
/-! Frames of a packet stream given to a Packetizer (46_packetizer.md R239, R242): it delivers each packet once
its last byte is there, discards nothing and sets no status bit. -/

namespace Sys2Proof.Machine

variable {s t v w : State} {f q rest : Bytes} {fs done head : List Bytes}

/-! ### what a Packetizer delivers -/

/-- Given the frames `fs`, the Packetizer `v` delivers the packets `done`, discards nothing, and is `w`
then. -/
structure Delivers (v : State) (fs done : List Bytes) (w : State) : Prop where
  feed_eq : feed (.pktPush 0) v fs = some (w, done.flatMap (delivered (dropsIdle v)))
  inv : w.Inv
  cfg_eq : w.cfg = v.cfg
  ctrl_eq : w.pktCtrl = v.pktCtrl
  status_eq : w.pktStatus = v.pktStatus

theorem Delivers.refl (h : v.Inv) : Delivers v [] [] v := ⟨rfl, h, rfl, rfl, rfl⟩

theorem Delivers.trans {gs more : List Bytes} {x : State} (hfirst : Delivers v fs done w)
    (hsecond : Delivers w gs more x) : Delivers v (fs ++ gs) (done ++ more) x := by
  have hdrop : dropsIdle w = dropsIdle v := by rw [dropsIdle, hfirst.ctrl_eq, ← dropsIdle]
  have hfeed := feed_append hfirst.feed_eq hsecond.feed_eq
  rw [hdrop, ← List.flatMap_append] at hfeed
  exact ⟨hfeed, hsecond.inv, hsecond.cfg_eq.trans hfirst.cfg_eq, hsecond.ctrl_eq.trans hfirst.ctrl_eq,
    hsecond.status_eq.trans hfirst.status_eq⟩

theorem Pushes.delivers {e : List Event} {cls : ℕ} (h : Pushes t 0 w e cls) (hload : Loads v f t)
    (hevents : e = done.flatMap (delivered (dropsIdle t))) (hstatus : w.pktStatus = t.pktStatus) :
    Delivers v [f] done w := by
  obtain ⟨-, -, ⟨-, -, -, hstatus', hctrl⟩, -⟩ := hload.units
  have hdrop : dropsIdle t = dropsIdle v := by rw [dropsIdle, hctrl, ← dropsIdle]
  obtain ⟨-, hcfg, -⟩ := h.rest
  rw [hdrop] at hevents
  exact ⟨hevents ▸ hload.feed_eq h.exec_eq h.answers, exec_inv hload.inv h.exec_eq,
    hcfg.trans hload.cfg_eq, h.ctrl.trans hctrl, hstatus.trans hstatus'⟩

/-- The frames `fs` bring the packets `due` to the Packetizer `v`, but for the bytes `rest` of the last of
them: it delivers all but that one, and `rest` would complete that one. -/
def Catches (v : State) (fs due : List Bytes) (rest : Bytes) : Prop :=
  ∃ w done left, Delivers v fs done w ∧ due = done ++ left ∧ Completes w.pktCarry rest left

/-! ### one frame -/

theorem exists_loads_frame (h : v.Inv) (hgood : FrameGood v.cfg f) : ∃ t, Loads v f t :=
  exists_loads h (hgood.1.trans_le (tmFrameSize_le_bufCap h.params))

/-- A frame in which no packet starts continues the packet in flight, or completes it. -/
theorem catches_of_noFirst (h : v.Inv) (hgood : FrameGood v.cfg f) (hp : pointerOf f = 0x7FF)
    (hdue : Completes v.pktCarry (dataField v.cfg f ++ rest) head) : Catches v [f] head rest := by
  have hfield := dataField_ne_nil h.params hgood.1
  obtain ⟨-, hnil, -⟩ | ⟨hcarry, -, rfl, hpacket⟩ := hdue
  · exact absurd (List.append_eq_nil_iff.1 hnil).1 hfield
  rw [← List.append_assoc] at hpacket ⊢
  obtain ⟨t, hload⟩ := exists_loads_frame h hgood
  obtain ⟨-, -, ⟨hcarry', -⟩, -⟩ := hload.units
  have hgood' := hgood
  rw [← hload.cfg_eq, ← hload.buf_eq] at hgood'
  obtain ⟨w, hpushes, ⟨hw, -⟩, hstatus⟩ :=
    exists_pushes_noFirst hload.inv hload.nbuf_pos hgood' (hload.buf_eq.symm ▸ hp)
  rw [hload.buf_eq, hload.cfg_eq, hcarry'] at hpushes hw hstatus
  rw [if_neg hcarry] at hstatus
  by_cases hrest : rest = []
  · subst hrest
    rw [List.append_nil] at hpacket ⊢
    rw [afterLead_of_isPacket _ _ hfield hpacket] at hpushes hw hstatus
    exact ⟨w, _, [], hpushes.delivers hload (List.flatMap_singleton _ _).symm (by simpa using hstatus),
      (List.append_nil _).symm, .inl ⟨hw, rfl, rfl⟩⟩
  · rw [afterLead_of_incomplete _ hfield (hpacket.incomplete_of_append hrest)] at hpushes hw hstatus
    refine ⟨w, [], _, hpushes.delivers hload rfl (by simpa using hstatus), rfl, ?_⟩
    rw [hw]
    exact hpacket.completes (List.append_ne_nil_of_left_ne_nil hcarry _) hrest

/-- Every packet that ends in the data field `lead ++ packets.flatten ++ trail` is delivered, and the trail
is in flight. -/
theorem exists_delivers_pointer {lead trail : Bytes} {packets : List Bytes} (h : v.Inv)
    (hgood : FrameGood v.cfg f) (hlead : lead.length = pointerOf f) (hfirst : pointerOf f ≠ 0x7FF)
    (hidle : pointerOf f ≠ 0x7FE) (hfield : dataField v.cfg f = lead ++ (packets.flatten ++ trail))
    (hpackets : ∀ q ∈ packets, IsPacket q) (htrail : Incomplete trail)
    (hhead : Completes v.pktCarry lead head) :
    ∃ w, Delivers v [f] (head ++ packets) w ∧ w.pktCarry = trail := by
  obtain ⟨t, hload⟩ := exists_loads_frame h hgood
  obtain ⟨-, -, ⟨hcarry', -⟩, -⟩ := hload.units
  have hgood' := hgood
  rw [← hload.cfg_eq, ← hload.buf_eq] at hgood'
  obtain ⟨w, packets', trail', hfield', hpackets', htrail', hpushes, ⟨hw, -⟩, hstatus⟩ :=
    exists_pushes_pointer hload.inv hload.nbuf_pos hgood' rfl (hload.buf_eq.symm ▸ hfirst)
      (hload.buf_eq.symm ▸ hidle)
  have htake : (dataField v.cfg f).take (pointerOf f) = lead := by rw [hfield, ← hlead, List.take_left]
  rw [hload.buf_eq, hload.cfg_eq, htake] at hfield' hpushes hstatus
  rw [hfield, List.append_assoc] at hfield'
  obtain ⟨rfl, rfl⟩ := packets_append_inj hpackets hpackets' htrail htrail'
    (List.append_cancel_left hfield')
  rw [hcarry', hhead.afterLead_eq] at hpushes hstatus
  refine ⟨w, hpushes.delivers hload List.flatMap_append.symm (hstatus.trans ?_), hw⟩
  have horphan : (if pointerOf f = 0 then (0 : BitVec 3) else
      if v.pktCarry = [] then 0b001 else 0) = 0 := by
    obtain ⟨-, rfl, -⟩ | ⟨hcarry, -⟩ := hhead
    · exact if_pos hlead.symm
    · rw [if_neg hcarry, ite_self]
  rw [horphan]
  simp

/-- A frame that completes the packet in flight, holds packets, and ends with the first bytes of `q`. -/
theorem catches_of_pointer {lead first : Bytes} {packets : List Bytes} (h : v.Inv)
    (hgood : FrameGood v.cfg f) (hlead : lead.length = pointerOf f) (hfirst : pointerOf f ≠ 0x7FF)
    (hidle : pointerOf f ≠ 0x7FE) (hfield : dataField v.cfg f = lead ++ (packets.flatten ++ first))
    (hpackets : ∀ q ∈ packets, IsPacket q) (hne : first ≠ []) (hq : IsPacket (first ++ rest))
    (hhead : Completes v.pktCarry lead head) :
    Catches v [f] (head ++ packets ++ [first ++ rest]) rest := by
  by_cases hrest : rest = []
  · subst hrest
    rw [List.append_nil] at hq ⊢
    have hall : ∀ q ∈ packets ++ [first], IsPacket q :=
      List.forall_mem_append.2 ⟨hpackets, List.forall_mem_singleton.2 hq⟩
    have hsplit : packets.flatten ++ first = (packets ++ [first]).flatten ++ [] := by
      rw [List.flatten_append, List.flatten_singleton, List.append_nil]
    obtain ⟨w, hdelivers, hw⟩ := exists_delivers_pointer h hgood hlead hfirst hidle (hsplit ▸ hfield)
      hall incomplete_nil hhead
    refine ⟨w, _, [], hdelivers, ?_, .inl ⟨hw, rfl, rfl⟩⟩
    rw [List.append_nil, List.append_assoc]
  · obtain ⟨w, hdelivers, hw⟩ := exists_delivers_pointer h hgood hlead hfirst hidle hfield hpackets
      (hq.incomplete_of_append hrest) hhead
    exact ⟨w, _, _, hdelivers, rfl, hw.symm ▸ hq.completes hne hrest⟩

/-! ### several frames -/

/-- Frames that all continue the same packet. -/
theorem catches_of_forall_noFirst (h : v.Inv)
    (hfs : ∀ f ∈ fs, FrameGood v.cfg f ∧ pointerOf f = 0x7FF)
    (hdue : Completes v.pktCarry ((fs.map (dataField v.cfg)).flatten ++ rest) head) :
    Catches v fs head rest := by
  induction fs generalizing v head with
  | nil => exact ⟨v, [], head, .refl h, rfl, hdue⟩
  | cons f fs ih =>
    rw [List.forall_mem_cons] at hfs
    obtain ⟨⟨hgood, hp⟩, hfs⟩ := hfs
    rw [List.map_cons, List.flatten_cons, List.append_assoc] at hdue
    obtain ⟨w, done, left, hdelivers, rfl, hleft⟩ := catches_of_noFirst h hgood hp hdue
    rw [← hdelivers.cfg_eq] at hleft hfs
    obtain ⟨x, more, left', hdelivers', rfl, hleft'⟩ := ih hdelivers.inv hfs hleft
    exact ⟨x, done ++ more, left', hdelivers.trans hdelivers', (List.append_assoc _ _ _).symm, hleft'⟩

theorem Catches.trans {gs due more : List Bytes} {first : Bytes} (h : Catches v fs due first)
    (hnext : ∀ {w left}, w.Inv → w.cfg = v.cfg → Completes w.pktCarry first left →
      Catches w gs (left ++ more) rest) : Catches v (fs ++ gs) (due ++ more) rest := by
  obtain ⟨w, done, left, hdelivers, rfl, hleft⟩ := h
  obtain ⟨x, done', left', hdelivers', hdue, hleft'⟩ := hnext hdelivers.inv hdelivers.cfg_eq hleft
  refine ⟨x, done ++ done', left', hdelivers.trans hdelivers', ?_, hleft'⟩
  rw [List.append_assoc, hdue, List.append_assoc]

end Sys2Proof.Machine
end

section
/-! An Assembler and a Packetizer that gets its frames (45_assembler.md R229, 46_packetizer.md R242): at each
command the bytes in flight in the Packetizer and those in the open frame are the packets not yet delivered.
-/

namespace Sys2Proof.Machine

variable {s t u v w : State} {q : Bytes} {qs fs held : List Bytes}

/-! ### the two in step -/

/-- The packets `held` have been given to the Assembler `s` and not been delivered by the Packetizer `v`: the
open frame holds the end of the packet in flight, up to the pointer, and then whole packets. -/
structure InStep (s v : State) (held : List Bytes) : Prop where
  inv : v.Inv
  cfg_eq : v.cfg = s.cfg
  holds : ∃ lead head packets, placed s = lead ++ packets.flatten ∧ lead.length = startPointer s ∧
    held = head ++ packets ∧ Completes v.pktCarry lead head ∧ ∀ q ∈ packets, IsPacket q

/-- Nothing is held where the open frame is empty. -/
theorem InStep.eq_nil (h : InStep s v held) (hwr : s.asmWr = 0) : held = [] ∧ v.pktCarry = [] := by
  obtain ⟨lead, head, packets, hplaced, -, rfl, hhead, hpackets⟩ := h.holds
  rw [placed_of_asmWr_eq_zero hwr] at hplaced
  obtain ⟨rfl, hnone⟩ := List.append_eq_nil_iff.1 hplaced.symm
  obtain ⟨hcarry, rfl⟩ := hhead.nil_of_lead
  have hpackets' : packets = [] := List.eq_nil_iff_forall_not_mem.2 fun q hq =>
    (hpackets q hq).ne_nil (List.flatten_eq_nil_iff.1 hnone q hq)
  exact ⟨by rw [hpackets', List.append_nil], hcarry⟩

/-- A fresh Assembler and a fresh Packetizer. -/
theorem inStep_of_empty (h : v.Inv) (hcfg : v.cfg = s.cfg) (hwr : s.asmWr = 0)
    (hfhp : s.asmFhp = 0x7FF) (hcarry : v.pktCarry = []) : InStep s v [] := by
  refine ⟨h, hcfg, [], [], [], placed_of_asmWr_eq_zero hwr, ?_, rfl, .inl ⟨hcarry, rfl, rfl⟩, nofun⟩
  rw [startPointer, if_pos hfhp, hwr]
  rfl

theorem InStep.congr (h : InStep s v held) (hcfg : t.cfg = s.cfg) (hasm : SameAsm s t) :
    InStep t v held := by
  obtain ⟨-, -, -, -, hwr, hfhp, hframe⟩ := hasm
  obtain ⟨hinv, hcfg', hholds⟩ := h
  refine ⟨hinv, hcfg'.trans hcfg.symm, ?_⟩
  rwa [placed, startPointer, hframe, hwr, hfhp]

/-! ### one packet -/

/-- The Assembler goes from `s` to `t` with the packets `qs`, and a Packetizer that was in step is in step
again once it has the frames `fs`: it has delivered the first of the packets held, in order. -/
def Relays (s : State) (qs : List Bytes) (t : State) (fs : List Bytes) : Prop :=
  ∀ v held, InStep s v held →
    ∃ w done held', Delivers v fs done w ∧ held ++ qs = done ++ held' ∧ InStep t w held'

theorem Relays.refl (s : State) : Relays s [] s [] := fun v held h =>
  ⟨v, [], held, .refl h.inv, List.append_nil _, h⟩

theorem Relays.trans {rs gs : List Bytes} (hfirst : Relays s qs t fs) (hsecond : Relays t rs u gs) :
    Relays s (qs ++ rs) u (fs ++ gs) := by
  intro v held h
  obtain ⟨w, done, held', hdelivers, hheld, hstep⟩ := hfirst v held h
  obtain ⟨x, done', left, hdelivers', hheld', hstep'⟩ := hsecond w held' hstep
  refine ⟨x, done ++ done', left, hdelivers.trans hdelivers', ?_, hstep'⟩
  rw [← List.append_assoc, hheld, List.append_assoc, hheld', List.append_assoc]

theorem Relays.congr_start (h : Relays s qs u fs) (hcfg : s.cfg = t.cfg) (hasm : SameAsm t s) :
    Relays t qs u fs := fun v held hstep => h v held (hstep.congr hcfg hasm)

theorem Relays.congr_end (h : Relays s qs t fs) (hcfg : u.cfg = t.cfg) (hasm : SameAsm t u) :
    Relays s qs u fs := fun v held hstep => by
  obtain ⟨w, done, held', hdelivers, hheld, hstep'⟩ := h v held hstep
  exact ⟨w, done, held', hdelivers, hheld, hstep'.congr hcfg hasm⟩

section
variable (hc : configValid s.cfg = true) (hopen : s.FrameOpen 0) (hq : IsPacket q)
include hc hopen

theorem startPointer_ne_sentinel : startPointer s ≠ 0x7FF ∧ startPointer s ≠ 0x7FE := by
  have hstart := startPointer_lt hopen
  have hmax := (dfLen_bounds hc).2
  omega

/-- Frames that the Assembler emits while it places one packet: the first has the pointer of the open frame,
and the packet starts in no other. -/
theorem Puts.frames_good {f : Bytes} (h : Puts s q t (f :: fs)) :
    (FrameGood s.cfg f ∧ pointerOf f = startPointer s) ∧
      ∀ g ∈ fs, FrameGood s.cfg g ∧ pointerOf g = 0x7FF := by
  refine ⟨?_, fun g hg => ?_⟩
  · obtain ⟨hpointer, -, hgood⟩ :=
      (h.finalises (j := 0) rfl).frameGood hc (.inr (startPointer_lt hopen))
    exact ⟨hgood, hpointer⟩
  · obtain ⟨j, hj⟩ := List.getElem?_of_mem hg
    obtain ⟨hpointer, -, hgood⟩ :=
      (h.finalises (j := j + 1) hj).frameGood hc (.inl (if_neg (Nat.succ_ne_zero j)))
    exact ⟨hgood, hpointer⟩

/-- The first frame that is completed takes the bytes placed before and the first bytes of the packet. -/
theorem Puts.exists_first {f : Bytes} (h : Puts s q t (f :: fs)) :
    ∃ first, first ≠ [] ∧ dataField s.cfg f = placed s ++ first ∧
      q = first ++ ((fs.map (dataField s.cfg)).flatten ++ placed t) := by
  obtain ⟨⟨hgood, -⟩, -⟩ := h.frames_good hc hopen
  have hroom : (placed s).length < (dataField s.cfg f).length := by
    rw [placed_length_of_frameOpen hc hopen, dataField_length hc hgood.1]
    exact hopen.wr_lt
  have hbytes := h.placed_append
  rw [List.map_cons, List.flatten_cons, List.append_assoc] at hbytes
  obtain ⟨first, hfield, hq⟩ | ⟨extra, hplaced, -⟩ := List.append_eq_append_iff.1 hbytes
  · refine ⟨first, ?_, hfield, hq⟩
    rintro rfl
    rw [hfield, List.append_nil] at hroom
    exact lt_irrefl _ hroom
  · rw [hplaced, List.length_append] at hroom
    omega

include hq

/-- No frame is completed: the packet is held after the others. -/
theorem Puts.relays_nil (h : Puts s q t []) : Relays s [q] t [] := by
  intro v held hstep
  obtain ⟨hinv, hcfg, lead, head, packets, hplaced, hlead, rfl, hhead, hpackets⟩ := hstep
  refine ⟨v, [], _, .refl hinv, rfl, hinv, hcfg.trans h.cfg_eq.symm, lead, head, packets ++ [q], ?_, ?_,
    List.append_assoc _ _ _, hhead,
    List.forall_mem_append.2 ⟨hpackets, List.forall_mem_singleton.2 hq⟩⟩
  · have hbytes := h.placed_append
    rw [List.map_nil, List.flatten_nil, List.nil_append] at hbytes
    rw [← hbytes, hplaced, List.flatten_append, List.flatten_singleton, List.append_assoc]
  · have hfhp : t.asmFhp.toNat = startPointer s := h.asmFhp_toNat.trans (if_pos rfl)
    have hsentinel := (startPointer_ne_sentinel hc hopen).1
    have hkept : startPointer t = t.asmFhp.toNat :=
      if_neg (by rwa [← asmFhp_toNat_eq_noFirst_iff, hfhp])
    rw [hlead, hkept, hfhp]

/-- A frame is completed: with it the packet in flight and the packets held are delivered, and of `q` what
the frames hold is in flight. -/
theorem Puts.relays_cons {f : Bytes} (h : Puts s q t (f :: fs)) : Relays s [q] t (f :: fs) := by
  intro v held hstep
  obtain ⟨hinv, hcfg, lead, head, packets, hplaced, hlead, rfl, hhead, hpackets⟩ := hstep
  obtain ⟨⟨hgood, hpointer⟩, hgoods⟩ := h.frames_good hc hopen
  obtain ⟨first, hne, hfield, rfl⟩ := h.exists_first hc hopen
  obtain ⟨hfirst, hidle⟩ := startPointer_ne_sentinel hc hopen
  rw [← hpointer] at hlead hfirst hidle
  rw [hplaced, List.append_assoc] at hfield
  rw [← hcfg] at hgood hgoods hfield hq ⊢
  have hcatches := (catches_of_pointer hinv hgood hlead hfirst hidle hfield hpackets hne hq hhead).trans
    (gs := fs) (more := []) (rest := placed t) fun {w left} hw hcfg' hleft => by
      rw [List.append_nil]
      rw [← hcfg'] at hleft hgoods
      exact catches_of_forall_noFirst hw hgoods hleft
  obtain ⟨w, done, left, hdelivers, hdue, hleft⟩ := hcatches
  rw [List.append_nil] at hdue
  refine ⟨w, done, left, hdelivers, hdue, hdelivers.inv,
    hdelivers.cfg_eq.trans (hcfg.trans h.cfg_eq.symm), placed t, left, [], (List.append_nil _).symm, ?_,
    (List.append_nil _).symm, hleft, nofun⟩
  rw [h.startPointer_after, placed_length_of_frameOpen (h.cfg_eq.symm ▸ hc) h.frameOpen]

theorem Puts.relays (h : Puts s q t fs) : Relays s [q] t fs := by
  cases fs with
  | nil => exact h.relays_nil hc hopen hq
  | cons f fs => exact h.relays_cons hc hopen hq

end

/-! ### the commands -/

/-- `ASM.FLUSH` adds at most two idle packets. -/
theorem Flushes.relays (h : Flushes s t fs) (hc : configValid s.cfg = true) (hopen : s.FrameOpen 0) :
    ∃ idle, Relays s idle t fs ∧ idle.length ≤ 2 ∧ ∀ q ∈ idle, (packetOf q).info = 1 := by
  have hmin := (dfLen_bounds hc).1
  have hmax := (dfLen_bounds hc).2
  cases h with
  | empty => exact ⟨[], .refl s, by decide, nofun⟩
  | once _ hfree hput =>
    have hfits : freeBytes s ≤ dfLen s.cfg := Nat.sub_le _ _
    exact ⟨[_], hput.relays hc hopen (isPacket_idleOf hfree (by omega)), by simp,
      List.forall_mem_singleton.2 (packetOf_idleOf_info _ _)⟩
  | twice _ hfree hfirst _ hsecond =>
    have hroom : 0 < freeBytes s := Nat.sub_pos_of_lt hopen.wr_lt
    have hrelays := (hfirst.relays hc hopen (isPacket_idleOf le_rfl (by decide))).trans
      (hsecond.relays (hfirst.cfg_eq.symm ▸ hc) hfirst.frameOpen
        (isPacket_idleOf (by omega) (by omega)))
    refine ⟨_, hrelays, by simp, List.forall_mem_append.2
      ⟨List.forall_mem_singleton.2 (packetOf_idleOf_info _ _),
        List.forall_mem_singleton.2 (packetOf_idleOf_info _ _)⟩⟩

/-- One packet loaded and given to the Assembler. -/
theorem exists_feed_asmPush_singleton (h : s.Inv) (hq : IsPacket q) (hcap : q.length ≤ s.cfg.bufCap) :
    ∃ t fs, feed (.asmPush 0) s [q] = some (t, fs.map frameOf) ∧ t.Inv ∧ t.cfg = s.cfg ∧
      Relays s [q] t fs := by
  obtain ⟨r, hload⟩ := exists_loads h hcap
  obtain ⟨-, hasm, -⟩ := hload.units
  obtain ⟨u, fs, hput, hcompletes⟩ :=
    exists_asmAnswers_asmPush hload.inv hload.nbuf_pos (hload.buf_eq.symm ▸ hq)
  obtain ⟨t, hexec, hanswers, -, hasm', -, -, -, -, -, -, -, -, hcfg, -⟩ := hcompletes.completes
  rw [hload.buf_eq] at hput
  have hrelays := hput.relays hload.inv.params (frameOpen_of_inv hload.inv) hq
  exact ⟨t, fs, hload.feed_eq hexec hanswers, exec_inv hload.inv hexec, hcfg.trans hload.cfg_eq,
    (hrelays.congr_start hload.cfg_eq hasm).congr_end (hcfg.trans hput.cfg_eq.symm) hasm'⟩

theorem exists_feed_asmPush {packets : List Bytes} (h : s.Inv)
    (hpackets : ∀ q ∈ packets, IsPacket q ∧ q.length ≤ s.cfg.bufCap) :
    ∃ t fs, feed (.asmPush 0) s packets = some (t, fs.map frameOf) ∧ t.Inv ∧
      Relays s packets t fs := by
  induction packets generalizing s with
  | nil => exact ⟨s, [], rfl, h, .refl s⟩
  | cons q packets ih =>
    rw [List.forall_mem_cons] at hpackets
    obtain ⟨⟨hq, hcap⟩, hpackets⟩ := hpackets
    obtain ⟨t, fs, hfeed, ht, hcfg, hrelays⟩ := exists_feed_asmPush_singleton h hq hcap
    rw [← hcfg] at hpackets
    obtain ⟨u, gs, hfeed', hu, hrelays'⟩ := ih ht hpackets
    refine ⟨u, fs ++ gs, ?_, hu, hrelays.trans hrelays'⟩
    rw [List.map_append]
    exact feed_append hfeed hfeed'

/-- `ASM.FLUSH` leaves nothing in the open frame. -/
theorem exists_asmFlush (h : s.Inv) :
    ∃ t fs idle, exec .asmFlush s = .next t ∧ eventsOf t = fs.map frameOf ∧ t.asmWr = 0 ∧
      Relays s idle t fs ∧ idle.length ≤ 2 ∧ ∀ q ∈ idle, (packetOf q).info = 1 := by
  obtain ⟨u, fs, hflushes, -, hwr, hcompletes⟩ := exists_asmAnswers_asmFlush h
  obtain ⟨t, hexec, hanswers, -, hasm, -, -, -, -, -, -, -, -, hcfg, -⟩ := hcompletes.completes
  obtain ⟨idle, hrelays, hcount, hidle⟩ := hflushes.relays h.params (frameOpen_of_inv h)
  have hcfg' : u.cfg = s.cfg := by rw [hcompletes.keeps]; rfl
  have hwr' : t.asmWr = u.asmWr := by
    obtain ⟨-, -, -, -, hwr', -⟩ := hasm
    exact hwr'
  exact ⟨t, fs, idle, hexec, eventsOf_of_answers hanswers, hwr'.trans hwr,
    hrelays.congr_end (hcfg.trans hcfg'.symm) hasm, hcount, hidle⟩

/-! ### the whole stream -/

/-- A Packetizer just reset, with this `PKT_CTRL`. -/
def freshPacketizer (c : Config) (ctrl : BitVec 1) : State := { State.resetFor c with pktCtrl := ctrl }

theorem freshPacketizer_inv {c : Config} (hc : configValid c = true) (ctrl : BitVec 1) :
    (freshPacketizer c ctrl).Inv := by
  have h := resetFor_inv hc
  rw [inv_iff] at h ⊢
  exact h

/-- Frames that bring whole packets out of a fresh Assembler bring them through a fresh Packetizer. -/
theorem Relays.exists_feed_pktPush {c : Config} (h : Relays (State.resetFor c) qs t fs)
    (hc : configValid c = true) (hwr : t.asmWr = 0) (ctrl : BitVec 1) :
    ∃ v, feed (.pktPush 0) (freshPacketizer c ctrl) fs =
        some (v, qs.flatMap (delivered (decide (ctrl = 1)))) ∧ v.pktCarry = [] ∧ v.pktStatus = 0 := by
  have hstart : InStep (State.resetFor c) (freshPacketizer c ctrl) [] :=
    inStep_of_empty (freshPacketizer_inv hc ctrl) rfl rfl rfl rfl
  obtain ⟨v, done, held, hdelivers, hdone, hstep⟩ := h _ _ hstart
  obtain ⟨rfl, hcarry⟩ := hstep.eq_nil hwr
  rw [List.nil_append, List.append_nil] at hdone
  exact ⟨v, hdone ▸ hdelivers.feed_eq, hcarry, hdelivers.status_eq⟩

theorem flatMap_delivered_false (qs : List Bytes) : qs.flatMap (delivered false) = qs.map packetOf := by
  have hall : delivered false = fun q => [packetOf q] :=
    funext fun _ => if_neg fun h => Bool.false_ne_true h.1
  rw [hall, List.map_eq_flatMap]

theorem flatMap_delivered_true_of_idle (h : ∀ q ∈ qs, (packetOf q).info = 1) :
    qs.flatMap (delivered true) = [] :=
  List.flatMap_eq_nil_iff.2 fun q hq => if_pos ⟨rfl, h q hq⟩

theorem flatMap_delivered_true_of_not_idle (h : ∀ q ∈ qs, (packetOf q).info = 0) :
    qs.flatMap (delivered true) = qs.map packetOf := by
  rw [← flatMap_delivered_false]
  refine List.flatMap_congr fun q hq => ?_
  have hinfo : (packetOf q).info ≠ 1 := by rw [h q hq]; decide
  rw [delivered, delivered, if_neg fun h => hinfo h.2, if_neg fun h => hinfo h.2]

/-- Settles O60: with each command of the Assembler a Packetizer that gets its frames stays in step
(`exists_feed_asmPush`, `exists_asmFlush`), and after `ASM.FLUSH` nothing is held back
(`Relays.exists_feed_pktPush`). -/
theorem reassemblyEquivalence : Obligations.ReassemblyEquivalence := by
  intro c packets hc hpackets
  obtain ⟨t, fs, hfeed, ht, hpushed⟩ := exists_feed_asmPush (resetFor_inv hc) hpackets
  obtain ⟨u, gs, idle, hexec, hevents, hwr, hflushed, hcount, hidle⟩ := exists_asmFlush ht
  have hrelays := hpushed.trans hflushed
  refine ⟨t, u, _, fs ++ gs, hfeed, hexec, by rw [hevents, List.map_append], ?_, fun hnone => ?_⟩
  · obtain ⟨v, hfeed, hcarry, hstatus⟩ := hrelays.exists_feed_pktPush hc hwr 0
    rw [decide_eq_false (by decide), flatMap_delivered_false] at hfeed
    exact ⟨v, idle, hfeed, hcount, hidle, hcarry, hstatus⟩
  · obtain ⟨v, hfeed, hcarry, hstatus⟩ := hrelays.exists_feed_pktPush hc hwr 1
    rw [decide_eq_true rfl, List.flatMap_append, flatMap_delivered_true_of_not_idle hnone,
      flatMap_delivered_true_of_idle hidle, List.append_nil] at hfeed
    exact ⟨v, hfeed, hcarry, hstatus⟩

end Sys2Proof.Machine
end

section
/-! No byte that enters the Packetizer is dropped silently (60_exceptions.md R287): with `DROP_IDLE` 0 every
byte that comes in is in an event or in the carry left. -/

namespace Sys2Proof.Machine

variable {i : Instr} {s t : State} {st : Status} {r : Reason} {aux : ℕ} {answer : Response}

/-! ### the bytes of events -/

/-- The bytes that events give back to the host, in order. -/
def eventData (events : List Event) : Bytes := (events.map Event.data).flatten

theorem eventData_append (d e : List Event) : eventData (d ++ e) = eventData d ++ eventData e := by
  rw [eventData, List.map_append, List.flatten_append, eventData, eventData]

theorem eventData_singleton (e : Event) : eventData [e] = e.data := List.flatten_singleton

/-- With `DROP_IDLE` 0 every packet is delivered, an idle one too. -/
theorem eventData_delivered_false (q : Bytes) : eventData (delivered false q) = q := by
  rw [delivered, if_neg fun h => Bool.false_ne_true h.1, eventData_singleton, packetOf]

theorem eventData_flatMap_delivered_false (packets : List Bytes) :
    eventData (packets.flatMap (delivered false)) = packets.flatten := by
  rw [flatMap_delivered_false, eventData, List.map_map]
  exact congrArg List.flatten (List.map_id packets)

/-! ### `PKT.PUSH` -/

/-- Step 1 of `PKT.PUSH`: the carry and the leading fragment are delivered, discarded with an event, or
carried on. -/
theorem eventData_afterLead (starts : Bool) (carry lead : Bytes) :
    eventData (afterLead false starts carry lead).2.1 ++ (afterLead false starts carry lead).1 =
      carry ++ lead := by
  unfold afterLead
  split_ifs with hlead
  · rw [eventData_singleton, discardOf, hlead]
  · rw [hlead, List.append_nil]
    rfl
  · rw [eventData_delivered_false, List.append_nil]
  · rw [eventData_singleton, discardOf, List.append_nil]
  · rw [eventData_singleton, discardOf, List.append_nil]
  · rfl

/-- A command that completes with `OK` takes no fault. -/
theorem not_faults_of_ok (hexec : exec i s = .next t) (hanswer : t.response = some answer)
    (hok : answer.status = .ok) (hst : st ≠ .ok) : ¬ Faults i s st r aux := by
  intro hfaults
  rw [Faults, hexec] at hfaults
  cases hfaults
  cases hanswer
  exact hst hok

/-- `PKT.PUSH` completes with `OK` only where the buffer exists and the frame passes the check. -/
theorem frameGood_of_pktPush_ok {bs : BufIx} (h : s.Inv) (hexec : exec (.pktPush bs) s = .next t)
    (hanswer : t.response = some answer) (hok : answer.status = .ok) :
    bs.toNat < s.cfg.nbuf ∧ FrameGood s.cfg (s.buf bs) := by
  have hbs : bs.toNat < s.cfg.nbuf := by
    by_contra hmissing
    have hfaults : NeedsBuf (.pktPush bs) s bs := needsBuf_of_operand rfl
    exact not_faults_of_ok hexec hanswer hok (by decide) (hfaults (Nat.le_of_not_lt hmissing))
  refine ⟨hbs, ?_⟩
  obtain hgood | ⟨r, a, hreason, hcheck⟩ := frameGood_or_frameCheck_error h.params (s.buf bs)
  · exact hgood
  · have hfaults : Faults (.pktPush bs) s (statusOf r) r a :=
      faults_of_frameCheck_error (by simp) hbs hcheck rfl hreason.statusOf_ne_ok
    exact absurd hfaults (not_faults_of_ok hexec hanswer hok hreason.statusOf_ne_ok)

theorem Pushes.answer_events {u : State} {bs : BufIx} {e : List Event} {cls : ℕ}
    (hpushes : Pushes s bs u e cls) (hexec : exec (.pktPush bs) s = .next t)
    (hanswer : t.response = some answer) : u = t ∧ answer.events = e := by
  have hsame := hpushes.exec_eq.symm.trans hexec
  cases hsame
  have hboth := hpushes.answers.symm.trans hanswer
  cases hboth
  exact ⟨rfl, rfl⟩

/-- `PKT.PUSH` of a frame that is not idle, by the class of its pointer: the leading fragment is accounted
for by `eventData_afterLead`, and the packets and the trail are the rest of the data field. -/
theorem pktPush_keeps_bytes {bs : BufIx} (h : s.Inv) (hctrl : s.pktCtrl = 0)
    (hexec : exec (.pktPush bs) s = .next t) (hanswer : t.response = some answer)
    (hok : answer.status = .ok) (hidle : pointerOf (s.buf bs) ≠ 0x7FE) :
    s.pktCarry ++ dataField s.cfg (s.buf bs) = eventData answer.events ++ t.pktCarry := by
  obtain ⟨hbs, hgood⟩ := frameGood_of_pktPush_ok h hexec hanswer hok
  have hkeep : dropsIdle s = false := by rw [dropsIdle, hctrl]; rfl
  by_cases hfirst : pointerOf (s.buf bs) = 0x7FF
  · obtain ⟨u, hpushes, ⟨hcarry, -⟩, -⟩ := exists_pushes_noFirst h hbs hgood hfirst
    obtain ⟨rfl, hevents⟩ := hpushes.answer_events hexec hanswer
    rw [hevents, hcarry, hkeep, eventData_afterLead]
  · obtain ⟨u, packets, trail, hfield, -, -, hpushes, ⟨hcarry, -⟩, -⟩ :=
      exists_pushes_pointer h hbs hgood rfl hfirst hidle
    obtain ⟨rfl, hevents⟩ := hpushes.answer_events hexec hanswer
    have hlead := eventData_afterLead true s.pktCarry
      ((dataField s.cfg (s.buf bs)).take (pointerOf (s.buf bs)))
    rw [afterLead_starts, List.append_nil] at hlead
    calc s.pktCarry ++ dataField s.cfg (s.buf bs)
      _ = s.pktCarry ++ ((dataField s.cfg (s.buf bs)).take (pointerOf (s.buf bs)) ++
            packets.flatten ++ trail) := congrArg (s.pktCarry ++ ·) hfield
      _ = eventData answer.events ++ u.pktCarry := by
        rw [hevents, hcarry, hkeep, eventData_append, hlead, eventData_flatMap_delivered_false]
        simp only [List.append_assoc]

/-! ### `PKT.CLEAR` -/

theorem pktClear_keeps_bytes (hexec : exec .pktClear s = .next t) (hanswer : t.response = some answer) :
    s.pktCarry = eventData answer.events ∧ t.pktCarry = [] := by
  obtain ⟨u, hclear, hempty, -⟩ := exists_pktAnswers_pktClear s
  obtain ⟨v, hexec', hanswers, -, ⟨hcarry, -⟩, -⟩ := hclear.completes
  have hsame := hexec'.symm.trans hexec
  cases hsame
  have hboth := hanswers.symm.trans hanswer
  cases hboth
  refine ⟨?_, hcarry.trans hempty⟩
  split_ifs with hnone
  · exact hnone
  · rw [eventData_singleton, discardOf]

/-- Settles O58: `PKT.PUSH` by the class of the frame's pointer (`pktPush_keeps_bytes`), and `PKT.CLEAR`,
which discards the carry with an event (`pktClear_keeps_bytes`). -/
theorem packetizerKeepsEveryByte : Obligations.PacketizerKeepsEveryByte :=
  ⟨fun _ _ _ _ h hctrl hexec hanswer hok hidle =>
      pktPush_keeps_bytes h hctrl hexec hanswer hok hidle,
    fun _ _ _ hexec hanswer => pktClear_keeps_bytes hexec hanswer⟩

end Sys2Proof.Machine
end

section
/-! The register space (10_state.md R26): every address of the map is that of one register, what a register
reads, and what a write to it changes. -/

namespace Sys2Proof.Machine

variable {x : Scalar} {q r : Reg}

/-! ### addresses -/

/-- The address of a register (10_state.md R26). -/
def regAddr : Reg → ℕ
  | .res i => i.val
  | .errflags => 0x10
  | .bchSr => 0x11
  | .asmScid => 0x20
  | .asmVcid => 0x21
  | .asmVcfc => 0x22
  | .asmMcfc => 0x23
  | .asmWr => 0x24
  | .asmFhp => 0x25
  | .pktCarryLen => 0x30
  | .pktTarget => 0x31
  | .pktStatus => 0x32
  | .pktCtrl => 0x33

theorem regAddr_lt (r : Reg) : regAddr r < 0x34 := by
  cases r with
  | res i => exact i.isLt.trans (by decide)
  | _ => decide

theorem regAt_eq_some_iff : regAt x = some r ↔ regAddr r = x.toNat := by
  constructor
  · intro h
    unfold regAt at h
    split at h
    · cases h
      rfl
    · split at h <;> cases h
      all_goals next haddr => exact haddr.symm
  · intro h
    obtain rfl : x = BitVec.ofNat 32 (regAddr r) := by rw [h, BitVec.ofNat_toNat, BitVec.setWidth_eq]
    cases r with
    | res i => exact (dif_pos (h ▸ i.isLt)).trans (congrArg (some ∘ Reg.res) (Fin.ext h.symm))
    | _ => rfl

/-- One register per address. -/
theorem regAddr_injective (h : regAddr q = regAddr r) : q = r := by
  have hsome (r : Reg) : regAt (BitVec.ofNat 32 (regAddr r)) = some r :=
    regAt_eq_some_iff.2 (by rw [BitVec.toNat_ofNat, Nat.mod_eq_of_lt ((regAddr_lt r).trans (by decide))])
  exact Option.some_injective _ ((hsome q).symm.trans (h ▸ hsome r))

theorem regAt_eq_none_iff : regAt x = none ↔ ∀ r, regAddr r ≠ x.toNat := by
  simp only [Option.eq_none_iff_forall_ne_some, ne_eq, regAt_eq_some_iff]

theorem mem_writableAddrs_iff (a : ℕ) :
    a ∈ writableAddrs ↔ ∃ r, regAddr r = a ∧ regAccess r ≠ .readOnly := by
  constructor
  · intro h
    simp only [writableAddrs, List.mem_cons, List.not_mem_nil, or_false] at h
    obtain rfl | rfl | rfl | rfl | rfl | rfl | rfl | rfl := h
    exacts [⟨.errflags, rfl, by decide⟩, ⟨.bchSr, rfl, by decide⟩, ⟨.asmScid, rfl, by decide⟩,
      ⟨.asmVcid, rfl, by decide⟩, ⟨.asmVcfc, rfl, by decide⟩, ⟨.asmMcfc, rfl, by decide⟩,
      ⟨.pktStatus, rfl, by decide⟩, ⟨.pktCtrl, rfl, by decide⟩]
  · rintro ⟨r, rfl, hr⟩
    cases r with
    | res | asmWr | asmFhp | pktCarryLen | pktTarget => exact absurd rfl hr
    | _ => decide

theorem mem_readOnlyAddrs_iff (a : ℕ) :
    a ∈ readOnlyAddrs ↔ ∃ r, regAddr r = a ∧ regAccess r = .readOnly := by
  constructor
  · intro h
    simp only [readOnlyAddrs, List.mem_append, List.mem_range, List.mem_cons, List.not_mem_nil,
      or_false] at h
    obtain hres | rfl | rfl | rfl | rfl := h
    exacts [⟨.res ⟨a, hres⟩, rfl, rfl⟩, ⟨.asmWr, rfl, rfl⟩, ⟨.asmFhp, rfl, rfl⟩,
      ⟨.pktCarryLen, rfl, rfl⟩, ⟨.pktTarget, rfl, rfl⟩]
  · rintro ⟨r, rfl, hr⟩
    cases r with
    | res i => exact List.mem_append_left _ (List.mem_range.2 i.isLt)
    | asmWr | asmFhp | pktCarryLen | pktTarget => decide
    | _ => cases hr

theorem mem_writableAddrs_append_readOnlyAddrs_iff (a : ℕ) :
    a ∈ writableAddrs ++ readOnlyAddrs ↔ ∃ r, regAddr r = a := by
  rw [List.mem_append, mem_writableAddrs_iff, mem_readOnlyAddrs_iff, ← exists_or]
  refine exists_congr fun r => ?_
  rw [← and_or_left, and_iff_left (ne_or_eq _ _)]

/-! ### reading -/

variable (s : State)

/-- `PKT_TARGET` as a number: the target, and 2^31 where it is valid. -/
theorem pktTargetWord_toNat :
    (pktTargetWord s).toNat = (if s.pktTargetValid then 2 ^ 31 else 0) + s.pktTarget.toNat := by
  have hlt := s.pktTarget.isLt
  rw [pktTargetWord, BitVec.toNat_append, BitVec.toNat_append, ← Nat.shiftLeft_add_eq_or_of_lt hlt]
  cases s.pktTargetValid <;> simp

/-- What the table of R26 says of the address of a register is what the register reads. -/
theorem registerValue_regAddr (hcarry : s.pktCarry.length ≤ 65542) (r : Reg) :
    registerValue s (regAddr r) = some (readReg s r).toNat := by
  cases r with
  | res i => exact dif_pos i.isLt
  | pktCarryLen =>
    have hlength : (readReg s .pktCarryLen).toNat = s.pktCarry.length := by
      rw [readReg, BitVec.toNat_setWidth_of_le (by decide), BitVec.toNat_ofNat,
        Nat.mod_eq_of_lt (by omega)]
    rw [hlength]
    rfl
  | pktTarget =>
    rw [readReg, BitVec.toNat_setWidth_of_le (by decide), pktTargetWord_toNat]
    rfl
  | _ =>
    rw [readReg, BitVec.toNat_setWidth_of_le (by decide)]
    rfl

theorem registerValue_ne_none_iff (a : ℕ) : registerValue s a ≠ none ↔ ∃ r, regAddr r = a := by
  constructor
  · contrapose!
    intro hnone
    have hout : a ∉ writableAddrs ++ readOnlyAddrs := fun hin =>
      have ⟨r, hr⟩ := (mem_writableAddrs_append_readOnlyAddrs_iff a).1 hin
      hnone r hr
    simp only [writableAddrs, readOnlyAddrs, List.mem_append, List.mem_range, List.mem_cons,
      List.not_mem_nil, or_false, not_or] at hout
    simp [registerValue, hout]
  · rintro ⟨r, rfl⟩
    cases r with
    | res i => exact ne_of_eq_of_ne (dif_pos i.isLt) (Option.some_ne_none _)
    | _ => exact Option.some_ne_none _

/-! ### writing -/

variable (v : Value) (r)

/-- A write changes no field but those of the registers that a host may write. -/
theorem writeReg_frame :
    writeReg s v r = { s with
      errflags := (writeReg s v r).errflags, bchSr := (writeReg s v r).bchSr
      asmScid := (writeReg s v r).asmScid, asmVcid := (writeReg s v r).asmVcid
      asmVcfc := (writeReg s v r).asmVcfc, asmMcfc := (writeReg s v r).asmMcfc
      pktStatus := (writeReg s v r).pktStatus, pktCtrl := (writeReg s v r).pktCtrl } := by
  cases r <;> rfl

theorem writeReg_errflags : (writeReg s v r).errflags =
    if r = .errflags then clearOnes s.errflags (v.setWidth 6) else s.errflags := by cases r <;> rfl

theorem writeReg_pktStatus : (writeReg s v r).pktStatus =
    if r = .pktStatus then clearOnes s.pktStatus (v.setWidth 3) else s.pktStatus := by
  cases r <;> rfl

theorem writeReg_bchSr :
    (writeReg s v r).bchSr = if r = .bchSr then v.setWidth 7 else s.bchSr := by cases r <;> rfl

theorem writeReg_asmScid :
    (writeReg s v r).asmScid = if r = .asmScid then v.setWidth 10 else s.asmScid := by cases r <;> rfl

theorem writeReg_asmVcid :
    (writeReg s v r).asmVcid = if r = .asmVcid then v.setWidth 3 else s.asmVcid := by cases r <;> rfl

theorem writeReg_asmVcfc :
    (writeReg s v r).asmVcfc = if r = .asmVcfc then v.setWidth 8 else s.asmVcfc := by cases r <;> rfl

theorem writeReg_asmMcfc :
    (writeReg s v r).asmMcfc = if r = .asmMcfc then v.setWidth 8 else s.asmMcfc := by cases r <;> rfl

theorem writeReg_pktCtrl :
    (writeReg s v r).pktCtrl = if r = .pktCtrl then v.setWidth 1 else s.pktCtrl := by cases r <;> rfl

variable {n : ℕ} {named addressed : Prop} [Decidable named] [Decidable addressed]

/-- A register of `n` bits that may be read and written, after a write of `v`. -/
theorem toNat_readWrite (h : named ↔ addressed) (old : BitVec n) :
    (if named then v.setWidth n else old).toNat =
      if addressed then v.toNat % 2 ^ n else old.toNat := by
  simp only [h]
  split_ifs
  · exact BitVec.toNat_setWidth _ _
  · rfl

/-- A register of `n` bits that a 1 clears, after a write of `v`. -/
theorem getLsbD_writeOneToClear (h : named ↔ addressed) (old : BitVec n) {k : ℕ} (hk : k < n) :
    (if named then clearOnes old (v.setWidth n) else old).getLsbD k =
      (old.getLsbD k && !(decide addressed && v.getLsbD k)) := by
  simp only [h]
  split_ifs with haddr
  · simp [clearOnes, haddr, hk]
  · simp [haddr]

end Sys2Proof.Machine
end

section
/-! The SYS family (47_system.md R255 to R258). -/

namespace Sys2Proof.Machine

variable {s t : State} {x : Scalar} {v : Value} {r : Reg} {answer : Response}

/-! ### `NOP` and `SRESET` -/

/-- Settles O21: `NOP` ends in the state it found; the zero word is its encoding, and `NOP` uses no payload
(`decode_of_agreeOn`). -/
theorem nopDoesNothing : Obligations.NopDoesNothing := by
  refine ⟨fun s => ⟨_, rfl, fun _ _ => rfl, fun _ _ => rfl, sameUnits_refl s, rfl⟩, fun p hp => ?_⟩
  have hzero : (0 : CmdWord) = encode .nop := by decide
  rw [hzero]
  exact decode_of_agreeOn (decode_encode (i := .nop) rfl) (agreeOn_refl _ _)
    ((payloadFits_iff p).2 hp) nofun

/-- Settles O24: `SRESET` answers `OK` in the state that the reset input leaves (`exec_sreset`). -/
theorem sresetResets : Obligations.SresetResets := fun s => ⟨_, exec_sreset s, rfl, rfl⟩

/-! ### `REG.RD` -/

theorem exec_regRd_of_regAt (hreg : regAt x = some r) (s : State) :
    exec (.regRd x) s = .next (answerOk s (readReg s r) [] []) := by
  simp only [exec, execRegRd, hreg, complete_done]

theorem faults_regRd_of_regAt_none (hreg : regAt x = none) (s : State) :
    Faults (.regRd x) s .illegalCommand .badRegAddr x.toNat :=
  faults_of_raised rfl (by decide) (by simp only [exec, execRegRd, hreg])

theorem regAt_eq_none_of_registerValue (hnone : registerValue s x.toNat = none) : regAt x = none :=
  regAt_eq_none_iff.2 fun r hr => (registerValue_ne_none_iff s x.toNat).2 ⟨r, hr⟩ hnone

/-- Settles O22: an address of the table is that of one register, which answers what the table says
(`registerValue_regAddr`); all of them are below 0x34 (`regAddr_lt`). -/
theorem regRdReads : Obligations.RegRdReads := by
  intro s x hcarry
  refine ⟨fun n hn => ?_, fun hnone => ?_, fun hhigh => ?_⟩
  · obtain ⟨r, hr⟩ := (registerValue_ne_none_iff s x.toNat).1 (hn ▸ Option.some_ne_none n)
    rw [← hr, registerValue_regAddr s hcarry] at hn
    cases hn
    refine ⟨_, exec_regRd_of_regAt (regAt_eq_some_iff.2 hr) s, fun _ _ => rfl, fun _ _ => rfl,
      sameUnits_refl s, ?_, (readReg s r).isLt⟩
    rw [answerOk_response, BitVec.ofNat_toNat, BitVec.setWidth_eq]
  · exact faults_regRd_of_regAt_none (regAt_eq_none_of_registerValue hnone) s
  · by_contra hmapped
    obtain ⟨r, hr⟩ := (registerValue_ne_none_iff s x.toNat).1 hmapped
    have hlt := regAddr_lt r
    omega

/-! ### `REG.WR` -/

theorem exec_regWr_of_writable (hreg : regAt x = some r) (hr : regAccess r ≠ .readOnly) (s : State)
    (v : Value) : exec (.regWr x v) s = complete s (finish (writeReg s v r)) := by
  simp only [exec, execRegWr, hreg, decide_eq_true hr, require_true]

theorem faults_regWr_of_readOnly (hreg : regAt x = some r) (hr : regAccess r = .readOnly) (s : State)
    (v : Value) : Faults (.regWr x v) s .illegalCommand .readOnlyReg x.toNat :=
  faults_of_raised rfl (by decide) (by simp [exec, execRegWr, hreg, hr])

theorem faults_regWr_of_regAt_none (hreg : regAt x = none) (s : State) (v : Value) :
    Faults (.regWr x v) s .illegalCommand .badRegAddr x.toNat :=
  faults_of_raised rfl (by decide) (by simp only [exec, execRegWr, hreg])

/-- Settles O23: the register at a writable address takes the write and no other does, since an address is
that of one register (`regAddr_injective`); a read-only address and an address of no register fault. -/
theorem regWrWrites : Obligations.RegWrWrites := by
  intro s x v
  refine ⟨fun hmem => ?_, fun hmem => ?_, fun hwritable hreadOnly => ?_, ?_⟩
  · obtain ⟨r, hr, haccess⟩ := (mem_writableAddrs_iff _).1 hmem
    have hnames (q : Reg) : r = q ↔ x.toNat = regAddr q :=
      ⟨fun hq => hq ▸ hr.symm, fun hq => regAddr_injective (hr.trans hq)⟩
    refine ⟨_, exec_regWr_of_writable (regAt_eq_some_iff.2 hr) haccess s v, fun k hk => ?_,
      fun k hk => ?_, ?_, ?_, ?_, ?_, ?_, ?_, ?_⟩
    · rw [answerOk_errflags, writeReg_errflags]
      exact getLsbD_writeOneToClear v (hnames .errflags) _ hk
    · rw [answerOk_pktStatus, writeReg_pktStatus]
      exact getLsbD_writeOneToClear v (hnames .pktStatus) _ hk
    · rw [answerOk_bchSr, writeReg_bchSr]
      exact toNat_readWrite v (hnames .bchSr) _
    · rw [answerOk_asmScid, writeReg_asmScid]
      exact toNat_readWrite v (hnames .asmScid) _
    · rw [answerOk_asmVcid, writeReg_asmVcid]
      exact toNat_readWrite v (hnames .asmVcid) _
    · rw [answerOk_asmVcfc, writeReg_asmVcfc]
      exact toNat_readWrite v (hnames .asmVcfc) _
    · rw [answerOk_asmMcfc, writeReg_asmMcfc]
      exact toNat_readWrite v (hnames .asmMcfc) _
    · rw [answerOk_pktCtrl, writeReg_pktCtrl]
      exact toNat_readWrite v (hnames .pktCtrl) _
    · rw [writeReg_frame]
      exact ⟨rfl, rfl, rfl, rfl, rfl, rfl, rfl, rfl, fun _ _ => rfl, fun _ _ => rfl, rfl⟩
  · obtain ⟨r, hr, haccess⟩ := (mem_readOnlyAddrs_iff _).1 hmem
    exact faults_regWr_of_readOnly (regAt_eq_some_iff.2 hr) haccess s v
  · refine faults_regWr_of_regAt_none (regAt_eq_none_iff.2 fun r hr => ?_) s v
    obtain hin | hin := List.mem_append.1 ((mem_writableAddrs_append_readOnlyAddrs_iff _).2 ⟨r, hr⟩)
    · exact hwritable hin
    · exact hreadOnly hin
  · rw [mem_writableAddrs_append_readOnlyAddrs_iff, registerValue_ne_none_iff]

/-- Only `REG.WR` of address 0x10 writes `ERRFLAGS`. -/
theorem regWr_ok_errflags (hexec : exec (.regWr x v) s = .next t) (hanswer : t.response = some answer)
    (hok : answer.status = .ok) (hx : x ≠ 0x10) : t.errflags = s.errflags := by
  have hno {st : Status} {reason : Reason} {aux : ℕ} (hst : st ≠ .ok) :
      ¬ Faults (.regWr x v) s st reason aux := not_faults_of_ok hexec hanswer hok hst
  cases hreg : regAt x with
  | none => exact absurd (faults_regWr_of_regAt_none hreg s v) (hno (by decide))
  | some r =>
    by_cases hr : regAccess r = .readOnly
    · exact absurd (faults_regWr_of_readOnly hreg hr s v) (hno (by decide))
    · rw [exec_regWr_of_writable hreg hr] at hexec
      cases hexec
      refine (writeReg_errflags r s v).trans (if_neg ?_)
      rintro rfl
      exact hx (BitVec.eq_of_toNat_eq (regAt_eq_some_iff.1 hreg).symm)

end Sys2Proof.Machine
end

section
/-! Every command is answered (60_exceptions.md R276 to R282): the command port takes a fault or runs a
command that answers `OK`, in every state; how `ERRFLAGS` changes; and the steps that run no command. -/

namespace Sys2Proof.Machine

variable {i : Instr} {s t : State} {w : CmdWord} {p : Bytes}

/-! ### words that are no command -/

theorem payloadFits_eq_false_iff (p : Bytes) : payloadFits p = false ↔ 2 ^ 32 ≤ p.length := by
  rw [← Bool.not_eq_true, payloadFits_iff, Nat.not_lt]

theorem decode_of_payload_too_long (hp : payloadFits p = false) :
    decode w p = .error (.payloadTooLong p.length) := by
  simp only [decode, hp, Bool.false_eq_true, if_false]

/-- A refused word faults, unless it was refused for its payload. -/
theorem rejectWord_cases (s : State) (e : WordReject) :
    (∃ r a, statusOf r ≠ .ok ∧ rejectWord s e = .next (takeFault s r a)) ∨
      ∃ n, e = .payloadTooLong n := by
  cases e with
  | reservedNonzero rsv => exact .inl ⟨.reservedNonzero, _, by decide, rfl⟩
  | undefinedOpcode op => exact .inl ⟨.undefinedOpcode, _, by decide, rfl⟩
  | payloadTooLong n => exact .inr ⟨n, rfl⟩

theorem decode_ne_payloadTooLong (hp : payloadFits p = true) (n : ℕ) :
    decode w p ≠ .error (.payloadTooLong n) := by
  intro hdecode
  by_cases hrsv : (fieldsOf w).rsv = 0
  · cases hselect : selectOp (fieldsOf w) p with
    | none =>
      rw [decode_of_selectOp_eq_none hp hrsv hselect] at hdecode
      cases hdecode
    | some i =>
      rw [decode_eq_ok_iff.2 ⟨hp, asksFor_of_selectOp hrsv hselect⟩] at hdecode
      cases hdecode
  · rw [decode_of_rsv_ne_zero hp hrsv] at hdecode
    cases hdecode

theorem runCommand_of_decode_error {e : WordReject} (hdecode : decode w p = .error e) (s : State) :
    runCommand w p s = rejectWord s e := by
  simp only [runCommand, hdecode]

/-! ### the answer of a command -/

theorem exec_answer_cases (i : Instr) (s : State) :
    (∃ r a, statusOf r ≠ .ok ∧ exec i s = .next (takeFault s r a)) ∨
      ∃ u v d e, exec i s = .next (answerOk u v d e) := by
  obtain ⟨k, hexec, hform⟩ := exec_inForm i s
  cases hform with
  | raised hfault => exact .inl ⟨_, _, hfault, hexec⟩
  | done => exact .inr ⟨_, _, _, _, hexec⟩

/-- Where the command port answers a next state, it has taken a fault, or has run the command that the word
decodes to with `OK`. -/
theorem runCommand_cases (hrun : runCommand w p s = .next t) :
    (∃ r a, statusOf r ≠ .ok ∧ t = takeFault s r a) ∨
      ∃ i u v d e, decode w p = .ok i ∧ exec i s = .next t ∧ t = answerOk u v d e := by
  cases hdecode : decode w p with
  | ok i =>
    rw [runCommand_of_decode_ok hdecode] at hrun
    obtain ⟨r, a, hfault, hexec⟩ | ⟨u, v, d, e, hexec⟩ := exec_answer_cases i s
    all_goals
      have hsame := hexec.symm.trans hrun
      cases hsame
    · exact .inl ⟨r, a, hfault, rfl⟩
    · exact .inr ⟨i, u, v, d, e, rfl, hexec, rfl⟩
  | error e =>
    rw [runCommand_of_decode_error hdecode] at hrun
    obtain ⟨r, a, hfault, hreject⟩ | ⟨n, rfl⟩ := rejectWord_cases s e
    · have hsame := hreject.symm.trans hrun
      cases hsame
      exact .inl ⟨r, a, hfault, rfl⟩
    · cases hrun

/-- The flag that a fault sets, as a shift (60_exceptions.md R277). -/
theorem takeFault_eq {r : Reason} (hfault : statusOf r ≠ .ok) (s : State) (a : Value) :
    takeFault s r a =
      { s with
        errflags := s.errflags ||| ((1 : BitVec 6) <<< ((statusCode (statusOf r)).toNat - 1))
        response := some
          { status := statusOf r, reason := r, value := a, payload := [], events := [] } } := by
  rw [← errMask_of_fault hfault]
  rfl

/-- Settles O10: a status other than `OK` leaves only the first case of `runCommand_cases`. -/
theorem faultChangesOnlyErrflags : Obligations.FaultChangesOnlyErrflags := by
  intro s t w p answer hrun hanswer hstatus
  obtain ⟨r, a, hfault, rfl⟩ | ⟨i, u, v, d, e, -, -, rfl⟩ := runCommand_cases hrun
  · cases hanswer
    exact ⟨takeFault_eq hfault s a, rfl, rfl, rfl⟩
  · cases hanswer
    exact absurd rfl hstatus

/-! ### `ERRFLAGS` after `OK` -/

theorem Effect.errflags_eq (heffect : Effect i s t) (hi : ∀ x v, i ≠ .regWr x v) :
    t.errflags = s.errflags := by
  cases heffect with
  | none | buffer | bch | asmInit | pktClear => rfl
  | regWr r => exact absurd rfl (hi _ _)
  | asmPush => rw [asmPut_frame]
  | asmFlush => rw [asmFlushLoop_frame]
  | pktPush => rw [pktAccept_frame]; rfl

variable {answer : Response}

/-- Of the commands that complete with `OK` only `SRESET` and `REG.WR` of address 0x10 change `ERRFLAGS`. -/
theorem exec_ok_errflags (hexec : exec i s = .next t) (hanswer : t.response = some answer)
    (hok : answer.status = .ok) (hreset : i ≠ .sreset) (hclear : ∀ v, i ≠ .regWr 0x10 v) :
    t.errflags = s.errflags := by
  by_cases hi : ∃ x v, i = .regWr x v
  · obtain ⟨x, v, rfl⟩ := hi
    exact regWr_ok_errflags hexec hanswer hok fun hx => hclear v (hx ▸ rfl)
  · obtain ⟨r, a, hfault, rfl⟩ | ⟨u, vs, v, d, e, heffect, -, rfl⟩ := exec_cases hreset hexec
    · cases hanswer
      exact absurd hok hfault
    · rw [setResFrom_eq_withRes]
      exact heffect.errflags_eq fun x v hx => hi ⟨x, v, hx⟩

theorem one_le_statusCode {st : Status} (hst : st ≠ .ok) : 1 ≤ (statusCode st).toNat := by
  cases st with
  | ok => exact absurd rfl hst
  | _ => decide

/-- Settles O11: the flag of a fault is that of its class (`takeFault_eq`), and after `OK` the word has
decoded to a command (`runCommand_cases`), of which `exec_ok_errflags` speaks. -/
theorem errflagsUpdate : Obligations.ErrflagsUpdate := by
  intro s t w p answer hrun hanswer
  obtain ⟨r, a, hfault, rfl⟩ | ⟨i, u, v, d, e, hdecode, hexec, rfl⟩ := runCommand_cases hrun
  · refine ⟨fun _ => ?_, fun hok => ?_⟩ <;> cases hanswer
    · exact ⟨one_le_statusCode hfault, statusCode_le _,
        congrArg State.errflags (takeFault_eq hfault s a)⟩
    · exact absurd hok hfault
  · refine ⟨fun hstatus => ?_, fun hok => ⟨i, hdecode, exec_ok_errflags hexec hanswer hok⟩⟩
    cases hanswer
    exact absurd rfl hstatus

/-! ### every command is answered -/

theorem exists_exec_answer (i : Instr) (s : State) :
    ∃ t r, exec i s = .next t ∧ t.response = some r ∧ t.inputs = s.inputs ∧ t.cfg = s.cfg := by
  have hkeeps {t : State} (hexec : exec i s = .next t) : t.inputs = s.inputs ∧ t.cfg = s.cfg :=
    have ⟨_, _, _, hcfg, hinputs⟩ := unitsKeepToThemselves i s t hexec
    ⟨hinputs, hcfg⟩
  obtain ⟨r, a, -, hexec⟩ | ⟨u, v, d, e, hexec⟩ := exec_answer_cases i s
  · exact ⟨_, _, hexec, rfl, hkeeps hexec⟩
  · exact ⟨_, _, hexec, rfl, hkeeps hexec⟩

theorem exists_runCommand_answer (hp : payloadFits p = true) (w : CmdWord) (s : State) :
    ∃ t r, runCommand w p s = .next t ∧ t.response = some r ∧ t.inputs = s.inputs ∧ t.cfg = s.cfg := by
  cases hdecode : decode w p with
  | ok i =>
    rw [runCommand_of_decode_ok hdecode]
    exact exists_exec_answer i s
  | error e =>
    rw [runCommand_of_decode_error hdecode]
    obtain ⟨r, a, -, hreject⟩ | ⟨n, rfl⟩ := rejectWord_cases s e
    · exact ⟨_, _, hreject, rfl, rfl, rfl⟩
    · exact absurd hdecode (decode_ne_payloadTooLong hp n)

/-- Settles O12: the step runs the command (`step_of_command`), and a command whose payload fits is answered
(`exists_runCommand_answer`). -/
theorem everyCommandAnswered : Obligations.EveryCommandAnswered := by
  intro s w p rest hvalid hinputs hp
  rw [step_of_command hvalid hinputs]
  exact exists_runCommand_answer ((payloadFits_iff p).2 hp) w _

/-! ### the steps that run no command -/

theorem step_of_idle (hvalid : configValid s.cfg = true) (hinputs : s.inputs = []) :
    step s = .next s := by
  simp only [step, hvalid, hinputs, if_true]

theorem step_of_resetInput {rest : List HostInput} (hvalid : configValid s.cfg = true)
    (hinputs : s.inputs = .resetInput :: rest) :
    step s = .next (assertReset { s with inputs := rest }) := by
  simp only [step, hvalid, hinputs, if_true]

theorem step_of_invalid (hinvalid : configValid s.cfg = false) : step s = .refused .notAnSplCore := by
  simp only [step, hinvalid, Bool.false_eq_true, if_false]

/-- Settles O20: one case of `step` after another; a payload too long is refused by the decoder
(`decode_of_payload_too_long`). -/
theorem stepsWithoutCommand : Obligations.StepsWithoutCommand := by
  refine ⟨fun s => step_of_idle, fun s rest => step_of_resetInput,
    fun s w p rest hvalid hinputs hp => ?_, fun s => step_of_invalid⟩
  exact step_of_decode_error hvalid hinputs
    (decode_of_payload_too_long ((payloadFits_eq_false_iff p).2 hp))

end Sys2Proof.Machine
end
